-- ==== Sys2Proof/Word.lean ====
section
/-!
DEFINITION. The value types of the core: the general register's byte, the 16-bit word of `I`, `PC`, a stack
entry and an instruction, the 12-bit address literal, and the index of a general register.
-/

namespace Sys2Proof

/-- An 8-bit value: a general register, a timer, a byte of memory, the immediate `NN` (R7, R83). -/
abbrev Byte := BitVec 8

/-- A 16-bit value: `I`, `PC`, a stack entry, an instruction word (R7, R80). -/
abbrev Word := BitVec 16

/-- The 12-bit address literal `NNN` of an instruction (R7, R81). -/
abbrev Lit12 := BitVec 12

/-- The index `0x0` to `0xF` of a general register or of a key (R20, R35): every index an instruction can name
exists. -/
abbrev Reg := Fin 16

end Sys2Proof
end

