-- ==== Sys2Proof/Syntax.lean ====
section
/-!
DEFINITION. The instruction set as syntax: the closed enumeration of operation variants of R91, one constructor for
each of the 34 rows of the opcode map (R87, spec/opcode_table.json), carrying the decoded operand fields.
-/

namespace Sys2Proof

/-- One constructor per row of R87, in the table's order. `x`, `y` are register indices, `nn` an 8-bit and `nnn` a
12-bit literal, `n` a row count. -/
inductive Instr where
  /-- 00E0 `CLS`: clear the framebuffer (R173). -/
  | cls
  /-- 00EE `RET`: return from subroutine (R123). -/
  | ret
  /-- 1NNN `JP NNN`: unconditional jump (R121). -/
  | jp (nnn : Lit12)
  /-- 2NNN `CALL NNN`: subroutine call (R122). -/
  | call (nnn : Lit12)
  /-- 3XNN `SE Vx, NN`: skip if register equals immediate (R130). -/
  | seImm (x : Reg) (nn : Byte)
  /-- 4XNN `SNE Vx, NN`: skip if register differs from immediate (R131). -/
  | sneImm (x : Reg) (nn : Byte)
  /-- 5XY0 `SE Vx, Vy`: skip if two registers are equal (R132). -/
  | seReg (x y : Reg)
  /-- 6XNN `LD Vx, NN`: load immediate (R140). -/
  | ldImm (x : Reg) (nn : Byte)
  /-- 7XNN `ADD Vx, NN`: add immediate (R141). -/
  | addImm (x : Reg) (nn : Byte)
  /-- 8XY0 `LD Vx, Vy`: assign (R151). -/
  | ldReg (x y : Reg)
  /-- 8XY1 `OR Vx, Vy` (R152). -/
  | orReg (x y : Reg)
  /-- 8XY2 `AND Vx, Vy` (R153). -/
  | andReg (x y : Reg)
  /-- 8XY3 `XOR Vx, Vy` (R154). -/
  | xorReg (x y : Reg)
  /-- 8XY4 `ADD Vx, Vy`: add with carry flag (R155). -/
  | addReg (x y : Reg)
  /-- 8XY5 `SUB Vx, Vy`: `V[X] - V[Y]` (R156). -/
  | sub (x y : Reg)
  /-- 8XY6 `SHR Vx`: logical shift right by 1; `y` is decoded and ignored (R157). -/
  | shr (x y : Reg)
  /-- 8XY7 `SUBN Vx, Vy`: `V[Y] - V[X]` (R158). -/
  | subn (x y : Reg)
  /-- 8XYE `SHL Vx`: logical shift left by 1; `y` is decoded and ignored (R159). -/
  | shl (x y : Reg)
  /-- 9XY0 `SNE Vx, Vy`: skip if two registers differ (R133). -/
  | sneReg (x y : Reg)
  /-- ANNN `LD I, NNN`: load index register (R170). -/
  | ldI (nnn : Lit12)
  /-- BNNN `JP V0, NNN`: indexed jump (R124). -/
  | jpV0 (nnn : Lit12)
  /-- CXNN `RND Vx, NN`: masked random byte (R171). -/
  | rnd (x : Reg) (nn : Byte)
  /-- DXYN `DRW Vx, Vy, N`: draw sprite of `n` rows (R172). -/
  | drw (x y : Reg) (n : Nat)
  /-- EX9E `SKP Vx`: skip if key pressed (R180). -/
  | skp (x : Reg)
  /-- EXA1 `SKNP Vx`: skip if key not pressed (R181). -/
  | sknp (x : Reg)
  /-- FX07 `LD Vx, DT`: read the delay timer (R190). -/
  | ldVxDt (x : Reg)
  /-- FX0A `LD Vx, K`: wait for a key (R191). -/
  | ldVxK (x : Reg)
  /-- FX15 `LD DT, Vx`: set the delay timer (R192). -/
  | ldDtVx (x : Reg)
  /-- FX18 `LD ST, Vx`: set the sound timer (R193). -/
  | ldStVx (x : Reg)
  /-- FX1E `ADD I, Vx`: add a register to the index register (R194). -/
  | addI (x : Reg)
  /-- FX29 `LD F, Vx`: point `I` at a font glyph (R195). -/
  | ldF (x : Reg)
  /-- FX33 `LD B, Vx`: store the three decimal digits of a register (R196). -/
  | ldB (x : Reg)
  /-- FX55 `LD [I], Vx`: store registers `V[0]` to `V[X]` (R197). -/
  | ldMemVx (x : Reg)
  /-- FX65 `LD Vx, [I]`: load registers `V[0]` to `V[X]` (R198). -/
  | ldVxMem (x : Reg)
  deriving DecidableEq, Repr

end Sys2Proof
end

