-- ==== Sys2Proof/WellFormed.lean ====
section
/-!
DEFINITION. Which instructions are well formed: those whose operands fit the fields of R81. The types of `x`, `y`, `nn`
and `nnn` already fit theirs; the row count of DXYN is a count, a `Nat`, and is checked here.
-/

namespace Sys2Proof

/-- A row count fits the 4-bit field `N`, `0..15` (R81, R83). -/
def fitsN (n : Nat) : Bool := decide (n < 16)

/-- Every operand of the instruction fits its field. -/
def Instr.WellFormed : Instr → Bool
  | .cls | .ret => true
  | .jp _ | .call _ | .ldI _ | .jpV0 _ => true
  | .seImm _ _ | .sneImm _ _ | .ldImm _ _ | .addImm _ _ | .rnd _ _ => true
  | .seReg _ _ | .sneReg _ _ => true
  | .ldReg _ _ | .orReg _ _ | .andReg _ _ | .xorReg _ _ => true
  | .addReg _ _ | .sub _ _ | .shr _ _ | .subn _ _ | .shl _ _ => true
  | .drw _ _ n => fitsN n
  | .skp _ | .sknp _ => true
  | .ldVxDt _ | .ldVxK _ | .ldDtVx _ | .ldStVx _ | .addI _ | .ldF _ | .ldB _ => true
  | .ldMemVx _ | .ldVxMem _ => true

end Sys2Proof
end

