-- ==== Sys2Proof/Decode.lean ====
section
/-!
DEFINITION. The fields of an instruction word (R81), the decoder (R84 to R88, R91: total, reading no state), the encoder
written from the same table, and the opcode map of R87 as data, beside which both can be held.
-/

namespace Sys2Proof

/-! ### Fields of the instruction word (R81) -/

/-- `F = op[15:12]`, the family. -/
def fieldF (op : Word) : BitVec 4 := op.extractLsb' 12 4

/-- `X = op[11:8]`. -/
def fieldX (op : Word) : BitVec 4 := op.extractLsb' 8 4

/-- `Y = op[7:4]`. -/
def fieldY (op : Word) : BitVec 4 := op.extractLsb' 4 4

/-- `N = op[3:0]`. -/
def fieldN (op : Word) : BitVec 4 := op.extractLsb' 0 4

/-- `NN = op[7:0]`. -/
def fieldNN (op : Word) : Byte := op.extractLsb' 0 8

/-- `NNN = op[11:0]`. -/
def fieldNNN (op : Word) : Lit12 := op.extractLsb' 0 12

/-- The register `V[X]` the word names. -/
def regX (op : Word) : Reg := (fieldX op).toFin

/-- The register `V[Y]` the word names. -/
def regY (op : Word) : Reg := (fieldY op).toFin

/-! ### The decoder -/

/-- Family 0x0: matched on all 16 bits (R86). -/
def decodeSys (op : Word) : Option Instr :=
  match fieldNNN op with
  | 0x0E0#12 => some .cls
  | 0x0EE#12 => some .ret
  | _ => none

/-- Family 0x5: one operation, low nibble 0 (R86). -/
def decodeSeReg (op : Word) : Option Instr :=
  match fieldN op with
  | 0x0#4 => some (.seReg (regX op) (regY op))
  | _ => none

/-- Family 0x8: dispatch on the low nibble (R85). -/
def decodeAlu (op : Word) : Option Instr :=
  match fieldN op with
  | 0x0#4 => some (.ldReg (regX op) (regY op))
  | 0x1#4 => some (.orReg (regX op) (regY op))
  | 0x2#4 => some (.andReg (regX op) (regY op))
  | 0x3#4 => some (.xorReg (regX op) (regY op))
  | 0x4#4 => some (.addReg (regX op) (regY op))
  | 0x5#4 => some (.sub (regX op) (regY op))
  | 0x6#4 => some (.shr (regX op) (regY op))
  | 0x7#4 => some (.subn (regX op) (regY op))
  | 0xE#4 => some (.shl (regX op) (regY op))
  | _ => none

/-- Family 0x9: one operation, low nibble 0 (R86). -/
def decodeSneReg (op : Word) : Option Instr :=
  match fieldN op with
  | 0x0#4 => some (.sneReg (regX op) (regY op))
  | _ => none

/-- Family 0xE: dispatch on the low byte (R85, R86). -/
def decodeKey (op : Word) : Option Instr :=
  match fieldNN op with
  | 0x9E#8 => some (.skp (regX op))
  | 0xA1#8 => some (.sknp (regX op))
  | _ => none

/-- Family 0xF: dispatch on the low byte (R85, R86). -/
def decodeMisc (op : Word) : Option Instr :=
  match fieldNN op with
  | 0x07#8 => some (.ldVxDt (regX op))
  | 0x0A#8 => some (.ldVxK (regX op))
  | 0x15#8 => some (.ldDtVx (regX op))
  | 0x18#8 => some (.ldStVx (regX op))
  | 0x1E#8 => some (.addI (regX op))
  | 0x29#8 => some (.ldF (regX op))
  | 0x33#8 => some (.ldB (regX op))
  | 0x55#8 => some (.ldMemVx (regX op))
  | 0x65#8 => some (.ldVxMem (regX op))
  | _ => none

/-- `Decode(op)` (R103): the one operation whose row of R87 the word matches, with its fields, or `none` for
`Unrecognized`. -/
def decode (op : Word) : Option Instr :=
  match fieldF op with
  | 0x0#4 => decodeSys op
  | 0x1#4 => some (.jp (fieldNNN op))
  | 0x2#4 => some (.call (fieldNNN op))
  | 0x3#4 => some (.seImm (regX op) (fieldNN op))
  | 0x4#4 => some (.sneImm (regX op) (fieldNN op))
  | 0x5#4 => decodeSeReg op
  | 0x6#4 => some (.ldImm (regX op) (fieldNN op))
  | 0x7#4 => some (.addImm (regX op) (fieldNN op))
  | 0x8#4 => decodeAlu op
  | 0x9#4 => decodeSneReg op
  | 0xA#4 => some (.ldI (fieldNNN op))
  | 0xB#4 => some (.jpV0 (fieldNNN op))
  | 0xC#4 => some (.rnd (regX op) (fieldNN op))
  | 0xD#4 => some (.drw (regX op) (regY op) (fieldN op).toNat)
  | 0xE#4 => decodeKey op
  | 0xF#4 => decodeMisc op
  | _ => none

/-- Why a string of bytes is no instruction. -/
inductive DecodeError where
  /-- The word matches no row of R87 (R88); the raw opcode is carried. -/
  | unrecognized (op : Word)
  /-- Fewer than the two bytes of an instruction (R80) are there. -/
  | truncated (count : Nat)
  deriving DecidableEq, Repr

/-- The instruction word of two bytes, the first high-order (R53). -/
def wordOfBytes (hi lo : Byte) : Word := hi.setWidth 16 <<< 8 ||| lo.setWidth 16

/-- The byte at the lower address: `op[15:8]` (R53). -/
def highByte (op : Word) : Byte := op.extractLsb' 8 8

/-- The byte at the higher address: `op[7:0]` (R53). -/
def lowByte (op : Word) : Byte := op.extractLsb' 0 8

/-- Decode the instruction at the head of any bytes, with the bytes that follow it; total, rejecting by name. -/
def decodeBytes : List Byte → Except DecodeError (Instr × List Byte)
  | hi :: lo :: rest =>
    match decode (wordOfBytes hi lo) with
    | some i => .ok (i, rest)
    | none => .error (.unrecognized (wordOfBytes hi lo))
  | bytes => .error (.truncated bytes.length)

/-- The instruction the decoder reads from the bits `w` of a table row of `nbits` bits, laid out as the core stores
them: one word, high-order byte first (R53, R80); bits above `nbits` are 0. -/
def decodeTableWord (nbits w : Nat) : Option Instr :=
  let op : Word := BitVec.ofNat 16 (w % 2 ^ nbits)
  match decodeBytes [highByte op, lowByte op] with
  | .ok (i, _) => some i
  | .error _ => none

/-! ### The encoder -/

/-- Format NNN (R82): family and 12-bit literal. -/
def packNNN (f : BitVec 4) (nnn : Lit12) : Word := f.setWidth 16 <<< 12 ||| nnn.setWidth 16

/-- Format XNN and, with a sub-opcode for `nn`, format XSS (R82). -/
def packXNN (f : BitVec 4) (x : Reg) (nn : Byte) : Word :=
  f.setWidth 16 <<< 12 ||| (BitVec.ofFin (w := 4) x).setWidth 16 <<< 8 ||| nn.setWidth 16

/-- Formats XYN and XYS (R82). -/
def packXYN (f : BitVec 4) (x y : Reg) (n : BitVec 4) : Word :=
  f.setWidth 16 <<< 12 ||| (BitVec.ofFin (w := 4) x).setWidth 16 <<< 8 |||
    (BitVec.ofFin (w := 4) y).setWidth 16 <<< 4 ||| n.setWidth 16

/-- The word of an instruction (R87). -/
def encode : Instr → Word
  | .cls => 0x00E0#16
  | .ret => 0x00EE#16
  | .jp nnn => packNNN 0x1#4 nnn
  | .call nnn => packNNN 0x2#4 nnn
  | .seImm x nn => packXNN 0x3#4 x nn
  | .sneImm x nn => packXNN 0x4#4 x nn
  | .seReg x y => packXYN 0x5#4 x y 0x0#4
  | .ldImm x nn => packXNN 0x6#4 x nn
  | .addImm x nn => packXNN 0x7#4 x nn
  | .ldReg x y => packXYN 0x8#4 x y 0x0#4
  | .orReg x y => packXYN 0x8#4 x y 0x1#4
  | .andReg x y => packXYN 0x8#4 x y 0x2#4
  | .xorReg x y => packXYN 0x8#4 x y 0x3#4
  | .addReg x y => packXYN 0x8#4 x y 0x4#4
  | .sub x y => packXYN 0x8#4 x y 0x5#4
  | .shr x y => packXYN 0x8#4 x y 0x6#4
  | .subn x y => packXYN 0x8#4 x y 0x7#4
  | .shl x y => packXYN 0x8#4 x y 0xE#4
  | .sneReg x y => packXYN 0x9#4 x y 0x0#4
  | .ldI nnn => packNNN 0xA#4 nnn
  | .jpV0 nnn => packNNN 0xB#4 nnn
  | .rnd x nn => packXNN 0xC#4 x nn
  | .drw x y n => packXYN 0xD#4 x y (BitVec.ofNat 4 n)
  | .skp x => packXNN 0xE#4 x 0x9E#8
  | .sknp x => packXNN 0xE#4 x 0xA1#8
  | .ldVxDt x => packXNN 0xF#4 x 0x07#8
  | .ldVxK x => packXNN 0xF#4 x 0x0A#8
  | .ldDtVx x => packXNN 0xF#4 x 0x15#8
  | .ldStVx x => packXNN 0xF#4 x 0x18#8
  | .addI x => packXNN 0xF#4 x 0x1E#8
  | .ldF x => packXNN 0xF#4 x 0x29#8
  | .ldB x => packXNN 0xF#4 x 0x33#8
  | .ldMemVx x => packXNN 0xF#4 x 0x55#8
  | .ldVxMem x => packXNN 0xF#4 x 0x65#8

/-- The bytes of an instruction as memory holds them, high-order byte first (R53). -/
def encodeBytes (i : Instr) : List Byte := [highByte (encode i), lowByte (encode i)]

/-! ### The opcode map (R87) as data -/

/-- A row of R87: a word `op` belongs to it when `op & mask == match`. -/
structure OpcodeRow where
  matchBits : Word
  maskBits : Word
  deriving DecidableEq, Repr

/-- `op & mask == match`. -/
def OpcodeRow.selects (r : OpcodeRow) (op : Word) : Bool := op &&& r.maskBits == r.matchBits

/-- The row of R87 that an instruction stands for. -/
def rowOf : Instr → OpcodeRow
  | .cls => ⟨0x00E0#16, 0xFFFF#16⟩
  | .ret => ⟨0x00EE#16, 0xFFFF#16⟩
  | .jp _ => ⟨0x1000#16, 0xF000#16⟩
  | .call _ => ⟨0x2000#16, 0xF000#16⟩
  | .seImm _ _ => ⟨0x3000#16, 0xF000#16⟩
  | .sneImm _ _ => ⟨0x4000#16, 0xF000#16⟩
  | .seReg _ _ => ⟨0x5000#16, 0xF00F#16⟩
  | .ldImm _ _ => ⟨0x6000#16, 0xF000#16⟩
  | .addImm _ _ => ⟨0x7000#16, 0xF000#16⟩
  | .ldReg _ _ => ⟨0x8000#16, 0xF00F#16⟩
  | .orReg _ _ => ⟨0x8001#16, 0xF00F#16⟩
  | .andReg _ _ => ⟨0x8002#16, 0xF00F#16⟩
  | .xorReg _ _ => ⟨0x8003#16, 0xF00F#16⟩
  | .addReg _ _ => ⟨0x8004#16, 0xF00F#16⟩
  | .sub _ _ => ⟨0x8005#16, 0xF00F#16⟩
  | .shr _ _ => ⟨0x8006#16, 0xF00F#16⟩
  | .subn _ _ => ⟨0x8007#16, 0xF00F#16⟩
  | .shl _ _ => ⟨0x800E#16, 0xF00F#16⟩
  | .sneReg _ _ => ⟨0x9000#16, 0xF00F#16⟩
  | .ldI _ => ⟨0xA000#16, 0xF000#16⟩
  | .jpV0 _ => ⟨0xB000#16, 0xF000#16⟩
  | .rnd _ _ => ⟨0xC000#16, 0xF000#16⟩
  | .drw _ _ _ => ⟨0xD000#16, 0xF000#16⟩
  | .skp _ => ⟨0xE09E#16, 0xF0FF#16⟩
  | .sknp _ => ⟨0xE0A1#16, 0xF0FF#16⟩
  | .ldVxDt _ => ⟨0xF007#16, 0xF0FF#16⟩
  | .ldVxK _ => ⟨0xF00A#16, 0xF0FF#16⟩
  | .ldDtVx _ => ⟨0xF015#16, 0xF0FF#16⟩
  | .ldStVx _ => ⟨0xF018#16, 0xF0FF#16⟩
  | .addI _ => ⟨0xF01E#16, 0xF0FF#16⟩
  | .ldF _ => ⟨0xF029#16, 0xF0FF#16⟩
  | .ldB _ => ⟨0xF033#16, 0xF0FF#16⟩
  | .ldMemVx _ => ⟨0xF055#16, 0xF0FF#16⟩
  | .ldVxMem _ => ⟨0xF065#16, 0xF0FF#16⟩

/-- The 34 rows of R87 in the table's order. -/
def opcodeMap : List OpcodeRow :=
  [.cls, .ret, .jp 0, .call 0, .seImm 0 0, .sneImm 0 0, .seReg 0 0, .ldImm 0 0, .addImm 0 0].map rowOf ++
  [.ldReg 0 0, .orReg 0 0, .andReg 0 0, .xorReg 0 0, .addReg 0 0, .sub 0 0, .shr 0 0, .subn 0 0, .shl 0 0].map rowOf ++
  [.sneReg 0 0, .ldI 0, .jpV0 0, .rnd 0 0, .drw 0 0 0, .skp 0, .sknp 0].map rowOf ++
  [.ldVxDt 0, .ldVxK 0, .ldDtVx 0, .ldStVx 0, .addI 0, .ldF 0, .ldB 0, .ldMemVx 0, .ldVxMem 0].map rowOf

/-- No word belongs to both rows: they require different values of some bit. -/
def OpcodeRow.disjoint (r q : OpcodeRow) : Bool :=
  (r.matchBits ^^^ q.matchBits) &&& r.maskBits &&& q.maskBits != 0

end Sys2Proof
end

