-- ==== Sys2Proof/Config.lean ====
section
/-!
DEFINITION. What the spec leaves to an implementation: the two policies it lets a model take as an argument, and the
free values. The default of each policy and the open parameters (`MEM_SIZE`, `PROG_BASE`, `FONT_BASE`, `FONT_DATA`,
`FB_WIDTH`, `FB_HEIGHT`) stand in Sys2Proof/Machine/Params.lean.
-/

namespace Sys2Proof

/-- `ADDR_POLICY` (R12, R64): what an access at an address `a >= MEM_SIZE` does. -/
inductive AddrPolicy where
  /-- The access raises `AddressFault(a)`. -/
  | fault
  /-- The access goes to `a mod MEM_SIZE`. -/
  | mask
  deriving DecidableEq, Repr

/-- Which key FX0A captures when two or more are pressed (R191, 92_eei_decisions.md D17). -/
inductive KeyChoice where
  /-- Any pressed key: a draw among the pressed keys, the reading the spec asks a model to admit. -/
  | anyPressed
  /-- The lowest pressed index, the spec's deterministic choice. -/
  | lowestPressed
  deriving DecidableEq, Repr

/-- FREE VALUE. The byte `rnd8()` yields at the `n`-th draw (R18, R38, R171; assumption 4): any byte whatever; nothing
is known of it, and no two draws are related. -/
opaque Config.rnd8 : Nat → Byte

/-- FREE VALUE. What the `n`-th draw answers when FX0A has to choose among two or more pressed keys (R191;
assumption 5): any number whatever; `pickKey` reduces it to a position in the list of pressed keys. -/
opaque Config.keyDraw : Nat → Nat

end Sys2Proof
end

