-- ==== Sys2Proof/Machine/Params.lean ====
section
/-!
DEFINITION. The parameters of R8 to R12 at the defaults the spec takes (92_eei_decisions.md D1 to D5, D17, D24;
assumptions 1, 2, 3, 5), and the font table of R60.
-/

namespace Sys2Proof

/-- `MEM_SIZE` (R8): the number of bytes of main memory. -/
def Config.memSize : Nat := 4096

/-- `PROG_BASE` (R9): where the program is copied and what `PC` is at reset. -/
def Config.progBase : Nat := 0x200

/-- `FONT_BASE` (R10): the offset of the first font byte. -/
def Config.fontBase : Nat := 0x000

/-- The bytes of one glyph (R60): the font's per-glyph stride. -/
def Config.glyphBytes : Nat := 5

/-- `FB_WIDTH` (R11). -/
abbrev Config.fbWidth : Nat := 64

/-- `FB_HEIGHT` (R11). -/
abbrev Config.fbHeight : Nat := 32

/-- `ADDR_POLICY` (R12): the default `fault`. -/
def Config.addrPolicy : AddrPolicy := .fault

/-- Which key a completing FX0A captures (R191): any pressed key (D17, "any pressed key in the model"). -/
def Config.keyChoice : KeyChoice := .anyPressed

/-- `FONT_DATA` (R60): glyphs 0 to F, five rows each. -/
def Config.fontData : List Byte :=
  [0xF0, 0x90, 0x90, 0x90, 0xF0,  0x20, 0x60, 0x20, 0x20, 0x70] ++
  [0xF0, 0x10, 0xF0, 0x80, 0xF0,  0xF0, 0x10, 0xF0, 0x10, 0xF0] ++
  [0x90, 0x90, 0xF0, 0x10, 0x10,  0xF0, 0x80, 0xF0, 0x10, 0xF0] ++
  [0xF0, 0x80, 0xF0, 0x90, 0xF0,  0xF0, 0x10, 0x20, 0x40, 0x40] ++
  [0xF0, 0x90, 0xF0, 0x90, 0xF0,  0xF0, 0x90, 0xF0, 0x10, 0xF0] ++
  [0xF0, 0x90, 0xF0, 0x90, 0x90,  0xE0, 0x90, 0xE0, 0x90, 0xE0] ++
  [0xF0, 0x80, 0x80, 0x80, 0xF0,  0xE0, 0x90, 0x90, 0x90, 0xE0] ++
  [0xF0, 0x80, 0xF0, 0x80, 0xF0,  0xF0, 0x80, 0xF0, 0x80, 0x80]

end Sys2Proof
end

