-- ==== Sys2Proof/Machine/State.lean ====
section
/-!
DEFINITION. The architectural state (R39), the faults (R200), the refusals, and the state after reset (R40, R230).
-/

namespace Sys2Proof.Machine

/-- The framebuffer `FB` (R33): `FB_HEIGHT` rows, from the top, of `FB_WIDTH` pixels, from the left; `true` is a lit
pixel, the value 1. -/
abbrev Screen := Vector (Vector Bool Config.fbWidth) Config.fbHeight

/-- Main memory `MEM` (R51) in canonical form: addresses strictly rising, below `MEM_SIZE`, and no entry equal to the
byte an unlisted address reads as (`Memory.initial`). -/
abbrev Mem := List Host.Cell

/-- The complete architectural state of R39, and the model's own counter of draws. -/
structure State where
  /-- `V[0]` to `V[15]` (R20); `V[15]` is `VF` (R21). -/
  v : Vector Byte 16
  /-- The index register `I` (R23). -/
  i : Word
  /-- The program counter `PC` (R24). -/
  pc : Word
  /-- The return-address stack `STK[0]` to `STK[15]` (R27). -/
  stk : Vector Word 16
  /-- The stack pointer `SP`, `0..16`: how many entries are in use (R28). -/
  sp : Fin 17
  /-- The delay timer `DT` (R29). -/
  dt : Byte
  /-- The sound timer `ST` (R30). -/
  st : Byte
  /-- Main memory (R51). -/
  mem : Mem
  /-- The framebuffer (R33). -/
  fb : Screen
  /-- The dirty flag `DIRTY` (R34). -/
  dirty : Bool
  /-- The input latch `KEY[0]` to `KEY[15]`, `true` meaning pressed (R35). -/
  key : Vector Bool 16
  /-- THE MODEL'S OWN, not the spec's: how many free values have been drawn (assumption 6). -/
  draws : Nat
  deriving DecidableEq, Repr

/-- The faults of R200. Every one is SAFE: the machine has stopped with its state as it was before the tick. -/
inductive Fault where
  /-- Code 1: raised by `construct` when the program does not fit (R201); no machine exists. Safe. -/
  | programTooLarge (length : Nat)
  /-- Code 2: raised by `step` when the fetched word matches no row of the opcode map (R202). Safe. -/
  | unrecognizedInstruction (op : Word)
  /-- Code 3: raised by the fetch, DXYN, FX33, FX55 and FX65 for a byte address outside memory (R203). Safe: the
  policy `fault` is the spec's default (assumption 2). -/
  | addressFault (a : Nat)
  /-- Code 4: raised by 2NNN when 16 return addresses are held (R204). Safe. -/
  | stackOverflow (pc : Word)
  /-- Code 5: raised by 00EE when none is held (R205). Safe. -/
  | stackUnderflow (pc : Word)
  /-- Code 6: raised by the fetch when `PC` is odd (R206). Safe. -/
  | misalignedPc (pc : Word)
  deriving DecidableEq, Repr

/-- The refusals. -/
inductive Refusal where
  /-- Raised by no arm of `exec` as it stands: for an instruction without a meaning. Safe. -/
  | notModelled (mnemonic : String)
  /-- Raised by the host operation `setKey` for an index outside `0..15`, which R222 says a model refuses. Safe. -/
  | keyIndexOutOfRange (index : Nat)
  deriving DecidableEq, Repr

/-- The machine right after reset: the construction of R230 with the empty program (assumption 7), every element at the
value of R40. Memory lists nothing: it reads as the font and zeros (`Memory.initial`). -/
def State.reset : State where
  v := Vector.replicate 16 0
  i := 0
  pc := BitVec.ofNat 16 Config.progBase
  stk := Vector.replicate 16 0
  sp := 0
  dt := 0
  st := 0
  mem := []
  fb := Vector.replicate Config.fbHeight (Vector.replicate Config.fbWidth false)
  dirty := false
  key := Vector.replicate 16 false
  draws := 0

end Sys2Proof.Machine
end

