-- ==== Sys2Proof/Machine/Flags.lean ====
section
/-!
DEFINITION. Every flag computation of R31, on the operand values before the instruction.
-/

namespace Sys2Proof.Machine

/-- `b2n(c)` as a byte (R14). -/
def b2n (c : Bool) : Byte := if c then 1 else 0

/-- Carry of the 8-bit sum: `a + b > 255` (R155). -/
def carry (a b : Byte) : Bool := decide (a.toNat + b.toNat > 255)

/-- No borrow in `a - b`: `a >= b` (R156, R158). -/
def noBorrow (a b : Byte) : Bool := decide (b.toNat ≤ a.toNat)

/-- The bit a right shift by one shifts out: `a mod 2` (R157). -/
def shiftedOutLow (a : Byte) : Bool := a.getLsbD 0

/-- The bit a left shift by one shifts out: `a div 128` (R159). -/
def shiftedOutHigh (a : Byte) : Bool := a.getLsbD 7

end Sys2Proof.Machine
end

