-- ==== Sys2Proof/Machine/Memory.lean ====
section
/-!
DEFINITION. Main memory: what an unlisted address reads as, one byte read and written, the canonical form, and the
address primitive `Addr` with the access sequences built on it (R16, R51 to R68).
-/

namespace Sys2Proof.Machine

/-- What an address reads as when nothing has written it (R40, R60, R62): the font region holds `FONT_DATA`, every other
byte is 0. -/
def Memory.initial (a : Nat) : Byte :=
  if Config.fontBase ≤ a then Config.fontData.getD (a - Config.fontBase) 0 else 0

/-- The byte at offset `a`. -/
def Memory.read : Mem → Nat → Byte
  | [], a => Memory.initial a
  | (k, b) :: rest, a => if k = a then b else Memory.read rest a

/-- Put a cell in its place by address. -/
def Memory.insertCell (c : Host.Cell) : Mem → Mem
  | [] => [c]
  | d :: rest => if c.1 < d.1 then c :: d :: rest else d :: Memory.insertCell c rest

/-- Drop what is listed for offset `a`. -/
def Memory.erase (m : Mem) (a : Nat) : Mem := m.filter (fun c => c.1 != a)

/-- `MEM[a] <- b`, keeping the canonical form: the value an unlisted offset reads as is not listed. -/
def Memory.write (m : Mem) (a : Nat) (b : Byte) : Mem :=
  if b = Memory.initial a then Memory.erase m a else Memory.insertCell (a, b) (Memory.erase m a)

/-- The addresses rise strictly. -/
def Memory.rising : Mem → Bool
  | [] => true
  | c :: rest => rest.all (fun d => decide (c.1 < d.1)) && Memory.rising rest

/-- A cell that may be listed: inside memory, and not what an unlisted offset reads as. -/
def Memory.cellOk (c : Host.Cell) : Bool := decide (c.1 < Config.memSize) && c.2 != Memory.initial c.1

/-- The canonical form of memory. -/
def Memory.wf (m : Mem) : Bool := Memory.rising m && m.all Memory.cellOk

/-- `Addr(a)` under a policy (R16, R64): the offset an access at address `a` reaches. -/
def Memory.resolve (policy : AddrPolicy) (a : Nat) : Except Fault Nat :=
  match policy with
  | .fault => if a < Config.memSize then .ok a else .error (.addressFault a)
  | .mask => .ok (a % Config.memSize)

/-- The offsets that `n` byte accesses at `a, a+1, …` reach, each address through `Addr` on its own; the first address
out of range is the one reported (R64). -/
def Memory.resolveSeq (policy : AddrPolicy) : Nat → Nat → Except Fault (List Nat)
  | _, 0 => .ok []
  | a, n + 1 =>
    match Memory.resolve policy a with
    | .error f => .error f
    | .ok k =>
      match Memory.resolveSeq policy (a + 1) n with
      | .error f => .error f
      | .ok ks => .ok (k :: ks)

/-- Read `n` bytes at ascending addresses from `a` (R52, R54, R57). -/
def Memory.readSeq (policy : AddrPolicy) (m : Mem) (a n : Nat) : Except Fault (List Byte) :=
  match Memory.resolveSeq policy a n with
  | .error f => .error f
  | .ok ks => .ok (ks.map (Memory.read m))

/-- Write each byte at its offset, in order. -/
def Memory.writeAll (m : Mem) : List Nat → List Byte → Mem
  | k :: ks, b :: bs => Memory.writeAll (Memory.write m k b) ks bs
  | _, _ => m

/-- Write bytes at ascending addresses from `a`; every address is checked before any byte is written (R64, R107). -/
def Memory.writeSeq (policy : AddrPolicy) (m : Mem) (a : Nat) (bytes : List Byte) : Except Fault Mem :=
  match Memory.resolveSeq policy a bytes.length with
  | .error f => .error f
  | .ok ks => .ok (Memory.writeAll m ks bytes)

end Sys2Proof.Machine
end

