-- ==== Sys2Proof/Machine/Screen.lean ====
section
/-!
DEFINITION. The framebuffer and its XOR-blit engine (R33, R174).
-/

namespace Sys2Proof.Machine

/-- A pixel's place: its column and its row. -/
abbrev Pixel := Fin Config.fbWidth × Fin Config.fbHeight

/-- A column reduced modulo the grid's width (R174). -/
def wrapX (x : Nat) : Fin Config.fbWidth := ⟨x % Config.fbWidth, Nat.mod_lt _ (by decide)⟩

/-- A row reduced modulo the grid's height (R174). -/
def wrapY (y : Nat) : Fin Config.fbHeight := ⟨y % Config.fbHeight, Nat.mod_lt _ (by decide)⟩

/-- `FB[x, y]` (R15). -/
def Screen.pixel (fb : Screen) (p : Pixel) : Bool := fb[p.2][p.1]

/-- `FB[x, y] <- FB[x, y] ^ 1`. -/
def Screen.flip (fb : Screen) (p : Pixel) : Screen := fb.set p.2 (fb[p.2].set p.1 (!fb[p.2][p.1]))

/-- Every pixel 0 (R173). -/
def Screen.blank : Screen := Vector.replicate Config.fbHeight (Vector.replicate Config.fbWidth false)

/-- The pixels the set bits of one sprite row fall on: column `c` is bit `7 - c`, every pixel wrapping on its own
(R174). -/
def rowTargets (x0 y : Nat) (row : Byte) : List Pixel :=
  ((List.range 8).filter (fun c => row.getLsbD (7 - c))).map (fun c => (wrapX (x0 + c), wrapY y))

/-- The pixels the set bits of a sprite fall on, in the order of the loops of R174: row by row downward from `y`. -/
def spriteTargets (x0 : Nat) : Nat → List Byte → List Pixel
  | _, [] => []
  | y, row :: rest => rowTargets x0 y row ++ spriteTargets x0 (y + 1) rest

/-- A blit under way: the framebuffer, and whether a pixel that was on has been found. -/
structure Blit where
  fb : Screen
  hit : Bool
  deriving DecidableEq, Repr

/-- One set sprite pixel over pixel `p`: a collision if it was on before the XOR, then the XOR (R174). -/
def blitPixel (d : Blit) (p : Pixel) : Blit := ⟨d.fb.flip p, d.hit || d.fb.pixel p⟩

/-- The loops of `DrawSprite` (R174): the collision cleared at call start, then every set sprite pixel. -/
def blit (fb : Screen) (x0 y0 : Nat) (rows : List Byte) : Blit :=
  (spriteTargets x0 y0 rows).foldl blitPixel ⟨fb, false⟩

end Sys2Proof.Machine
end

