-- ==== Sys2Proof/Machine/Ops.lean ====
section
/-!
DEFINITION. The named operations over the state that the meanings share: registers, the program counter, the stack, the
draws, the fetch, raising a fault, and the timer phase that closes a tick.
-/

namespace Sys2Proof.Machine

/-- The outcome of an execute phase or of a tick. -/
abbrev Result := Host.Outcome State Fault Refusal

/-! ### Faults: the one operation that takes an exception

The core has no handler, no vector, no saved-state register and no mode (R210, R212): a fault ends the tick, the whole
tick is void (R17, R107), and the host gets the fault. The outcome `fault` therefore carries no state: the state the
host finds is the one before the tick (`tick` in Machine/HostInterface.lean says so). There is nothing to return from. -/

/-- `raise F(info)` (R17). -/
def raise {α : Type} (f : Fault) : Except Fault α := .error f

/-- The outcome of an execution that has either raised a fault or reached a state. -/
def deliver : Except Fault State → Result
  | .ok t => .next t
  | .error f => .fault f

/-! ### Registers -/

/-- `V[x]` (R15, R20). -/
def State.reg (s : State) (x : Reg) : Byte := s.v[x]

/-- `V[x] <- b` (R15, R20): no register is hardwired, none aliases another. -/
def State.setReg (s : State) (x : Reg) (b : Byte) : State := { s with v := s.v.set x b }

/-- The index of `VF` (R21). -/
def vf : Reg := 15

/-- `V[15] <- b2n(c)` (R31). -/
def State.setFlag (s : State) (c : Bool) : State := s.setReg vf (b2n c)

/-- The order of R150: the result to `V[x]` first, the flag to `VF` second, so that with `x = 15` the flag remains. -/
def State.setRegFlag (s : State) (x : Reg) (b : Byte) (c : Bool) : State := (s.setReg x b).setFlag c

/-- `I <- w` (R23). -/
def State.setI (s : State) (w : Word) : State := { s with i := w }

/-- `DT <- b` (R29). -/
def State.setDt (s : State) (b : Byte) : State := { s with dt := b }

/-- `ST <- b` (R30). -/
def State.setSt (s : State) (b : Byte) : State := { s with st := b }

/-- Memory replaced by what a store made of it. -/
def State.setMem (s : State) (m : Mem) : State := { s with mem := m }

/-- The framebuffer replaced by what a draw or a clear made of it, and marked dirty (R34, R173, R174). -/
def State.setScreen (s : State) (fb : Screen) : State := { s with fb := fb, dirty := true }

/-- A free value has been drawn: the next draw is another one (assumption 6). -/
def State.countDraw (s : State) : State := { s with draws := s.draws + 1 }

/-- The bytes `V[0]` to `V[x]`, both ends included (R197). -/
def State.regsUpTo (s : State) (x : Reg) : List Byte := s.v.toList.take (x.val + 1)

/-- `V[k] <- bytes[k]` for `k = 0..x`; the registers above `x` unchanged (R198). -/
def State.loadRegs (s : State) (x : Reg) (bytes : List Byte) : State :=
  { s with v := Vector.ofFn (fun k : Fin 16 => if k.val ≤ x.val then bytes.getD k.val 0 else s.v[k]) }

/-! ### The program counter (R24, R26, R106) -/

/-- `PC <- t`. -/
def State.jump (s : State) (t : Word) : State := { s with pc := t }

/-- `PC <- (PC + k) mod 65536`. -/
def State.advance (s : State) (k : Word) : State := { s with pc := s.pc + k }

/-- `PC <- (PC + 2) mod 65536`: the next instruction. -/
def State.nextPc (s : State) : State := s.advance 2

/-- A skip (R134): `PC + 4` when the condition holds, `PC + 2` otherwise, and nothing more. -/
def State.skipIf (s : State) (c : Bool) : State := if c then s.advance 4 else s.advance 2

/-! ### The return-address stack (R27, R28) -/

/-- `STK[SP] <- PC + 2; SP <- SP + 1`, or `StackOverflow(PC)` when 16 entries are held (R122). -/
def State.pushReturn (s : State) : Except Fault State :=
  if h : s.sp.val < 16 then
    .ok { s with stk := s.stk.set s.sp.val (s.pc + 2), sp := ⟨s.sp.val + 1, by omega⟩ }
  else raise (.stackOverflow s.pc)

/-- `SP <- SP - 1; PC <- STK[SP]`, or `StackUnderflow(PC)` when none is held (R123); the popped entry keeps its value. -/
def State.popReturn (s : State) : Except Fault State :=
  if h : 0 < s.sp.val then
    .ok { s with sp := ⟨s.sp.val - 1, by omega⟩, pc := s.stk[s.sp.val - 1]'(by omega) }
  else raise (.stackUnderflow s.pc)

/-! ### Memory and screen, as the state holds them -/

/-- `MEM[a]` (R15). -/
def State.byteAt (s : State) (a : Nat) : Byte := Memory.read s.mem a

/-- `DrawSprite(x0, y0, rows)` (R174): writes `FB`, `DIRTY` and `VF`. -/
def State.drawSprite (s : State) (x0 y0 : Nat) (rows : List Byte) : State :=
  (s.setScreen (blit s.fb x0 y0 rows).fb).setFlag (blit s.fb x0 y0 rows).hit

/-! ### Fetch (R102) -/

/-- `Fetch()`: `MisalignedPc` when `PC` is odd, else the two bytes at `PC`, the first high-order, each address through
`Addr` on its own. -/
def fetch (policy : AddrPolicy) (s : State) : Except Fault Word :=
  if s.pc.toNat % 2 = 1 then raise (.misalignedPc s.pc)
  else
    match Memory.resolve policy s.pc.toNat with
    | .error f => .error f
    | .ok a =>
      match Memory.resolve policy (s.pc.toNat + 1) with
      | .error f => .error f
      | .ok b => .ok (wordOfBytes (s.byteAt a) (s.byteAt b))

/-! ### The timer phase (R108) and the audio output (R36, R109) -/

/-- One countdown: down by one while non-zero, never below zero. -/
def countDown (b : Byte) : Byte := if b = 0 then 0 else b - 1

/-- Both timers count down once. -/
def State.timerPhase (s : State) : State := { s with dt := countDown s.dt, st := countDown s.st }

/-- What closes a tick whose instruction has executed: the timer phase; a fault or a refusal passes unchanged (R101,
R107). -/
def endTick : Result → Result
  | .next t => .next t.timerPhase
  | .fault f => .fault f
  | .refused r => .refused r

/-- `TONE = b2n(ST != 0)` of the state between ticks (R36, R109): an output, no stored state. -/
def State.tone (s : State) : Bool := s.st != 0

/-! ### Placing an instruction (for `State.withFetchWord`) -/

/-- Write one word, high-order byte first, where the fetch reads it. -/
def State.placeWord (s : State) (op : Word) : State :=
  match Memory.writeSeq Config.addrPolicy s.mem s.pc.toNat [highByte op, lowByte op] with
  | .ok m => s.setMem m
  | .error _ => s

end Sys2Proof.Machine
end

