-- ==== Sys2Proof/Machine/Operands.lean ====
section
/-!
DEFINITION. The operand forms: literals as values (R83), the index a register's value selects (keys R182, glyphs R195),
the addresses reached through `I` (R52), the decimal digits of FX33 (R196), and the keys FX0A looks at (R191).
-/

namespace Sys2Proof.Machine

/-- `NNN` as a 16-bit value: zero-extended, never scaled (R83). -/
def literal (nnn : Lit12) : Word := nnn.setWidth 16

/-- A register's value zero-extended to 16 bits (R194). -/
def zext (b : Byte) : Word := b.setWidth 16

/-- The target of BNNN: `NNN + V[0]`, not reduced to 12 bits (R124). -/
def indexedTarget (s : State) (nnn : Lit12) : Word := literal nnn + zext (s.reg 0)

/-- The key a register selects: its value modulo 16 (R182). -/
def keyIndex (b : Byte) : Fin 16 := ⟨b.toNat % 16, Nat.mod_lt _ (by decide)⟩

/-- `KEY[k]` as last pushed by the host (R35, R110). -/
def State.isPressed (s : State) (k : Fin 16) : Bool := s.key[k]

/-- `FONT_BASE + 5 * (V[x] mod 16)` (R195). -/
def glyphAddress (b : Byte) : Word :=
  BitVec.ofNat 16 (Config.fontBase + Config.glyphBytes * (b.toNat % 16))

/-- The hundreds, tens and units of a byte (R196). -/
def decimalDigits (b : Byte) : List Byte :=
  [BitVec.ofNat 8 (b.toNat / 100), BitVec.ofNat 8 (b.toNat / 10 % 10), BitVec.ofNat 8 (b.toNat % 10)]

/-- Read `n` bytes at ascending addresses from `I` (R52): `I` is not changed. -/
def State.readFromI (policy : AddrPolicy) (s : State) (n : Nat) : Except Fault (List Byte) :=
  Memory.readSeq policy s.mem s.i.toNat n

/-- Store bytes at ascending addresses from `I` (R52): `I` is not changed. -/
def State.storeAtI (policy : AddrPolicy) (s : State) (bytes : List Byte) : Except Fault State :=
  (Memory.writeSeq policy s.mem s.i.toNat bytes).map s.setMem

/-- The keys pressed, in ascending order: the set `P` of R191. -/
def State.pressedKeys (s : State) : List (Fin 16) := (List.finRange 16).filter (fun k => s.key[k])

/-- Some element of the pressed keys `k :: ks` (R191): the only one when there is one; among several, the lowest, or the
one a draw `d` points at. -/
def pickKey (choice : KeyChoice) (d : Nat) (k : Fin 16) (ks : List (Fin 16)) : Fin 16 :=
  match ks, choice with
  | [], _ => k
  | _ :: _, .lowestPressed => k
  | _ :: _, .anyPressed => (k :: ks).getD (d % (ks.length + 1)) k

/-- The index sum of FX1E, with no flag: `(I + V[x]) mod 65536` (R194). -/
def indexSum (s : State) (x : Reg) : Word := s.i + zext (s.reg x)

end Sys2Proof.Machine
end

