-- ==== Sys2Proof/Machine/Alu.lean ====
section
/-!
DEFINITION. Register-register ALU, family 0x8 (spec/44_alu.md). Operands are read before anything is written; the five
flag-writing forms write the flag last (R150).
-/

namespace Sys2Proof.Machine

/-- 8XY0 (R151): `V[X] <- V[Y]`. -/
def execLdReg (x y : Reg) (s : State) : Result := .next (s.setReg x (s.reg y)).nextPc

/-- 8XY1 (R152): `V[X] <- V[X] | V[Y]`; `VF` left as it was. -/
def execOrReg (x y : Reg) (s : State) : Result := .next (s.setReg x (s.reg x ||| s.reg y)).nextPc

/-- 8XY2 (R153): `V[X] <- V[X] & V[Y]`. -/
def execAndReg (x y : Reg) (s : State) : Result := .next (s.setReg x (s.reg x &&& s.reg y)).nextPc

/-- 8XY3 (R154): `V[X] <- V[X] ^ V[Y]`. -/
def execXorReg (x y : Reg) (s : State) : Result := .next (s.setReg x (s.reg x ^^^ s.reg y)).nextPc

/-- 8XY4 (R155): the sum modulo 256, `VF` the carry. -/
def execAddReg (x y : Reg) (s : State) : Result :=
  .next (s.setRegFlag x (s.reg x + s.reg y) (carry (s.reg x) (s.reg y))).nextPc

/-- 8XY5 (R156): `V[X] - V[Y]` modulo 256, `VF` 1 when no borrow occurs. -/
def execSub (x y : Reg) (s : State) : Result :=
  .next (s.setRegFlag x (s.reg x - s.reg y) (noBorrow (s.reg x) (s.reg y))).nextPc

/-- 8XY6 (R157): `V[X]` shifted right by one in place, `VF` the bit shifted out; `Y` is ignored. -/
def execShr (x _y : Reg) (s : State) : Result :=
  .next (s.setRegFlag x (s.reg x >>> 1) (shiftedOutLow (s.reg x))).nextPc

/-- 8XY7 (R158): `V[Y] - V[X]` modulo 256, `VF` 1 when no borrow occurs. -/
def execSubn (x y : Reg) (s : State) : Result :=
  .next (s.setRegFlag x (s.reg y - s.reg x) (noBorrow (s.reg y) (s.reg x))).nextPc

/-- 8XYE (R159): `V[X]` shifted left by one in place, `VF` the bit shifted out; `Y` is ignored. -/
def execShl (x _y : Reg) (s : State) : Result :=
  .next (s.setRegFlag x (s.reg x <<< 1) (shiftedOutHigh (s.reg x))).nextPc

end Sys2Proof.Machine
end

