-- ==== Sys2Proof/Machine/ControlFlow.lean ====
section
/-!
DEFINITION. Control flow (spec/41_control_flow.md): JP, CALL, RET, JP V0.
-/

namespace Sys2Proof.Machine

/-- 1NNN (R121): `PC <- NNN`. -/
def execJp (nnn : Lit12) (s : State) : Result := .next (s.jump (literal nnn))

/-- 2NNN (R122): push `PC + 2`, then `PC <- NNN`; `StackOverflow(PC)` on a full stack, nothing written. -/
def execCall (nnn : Lit12) (s : State) : Result := deliver (s.pushReturn.map (·.jump (literal nnn)))

/-- 00EE (R123): pop the return address into `PC`; `StackUnderflow(PC)` on an empty stack. -/
def execRet (s : State) : Result := deliver s.popReturn

/-- BNNN (R124): `PC <- NNN + V[0]`. -/
def execJpV0 (nnn : Lit12) (s : State) : Result := .next (s.jump (indexedTarget s nnn))

end Sys2Proof.Machine
end

