-- ==== Sys2Proof/Machine/Immediate.lean ====
section
/-!
DEFINITION. Immediate load and add (spec/43_immediate.md): no flag effect.
-/

namespace Sys2Proof.Machine

/-- 6XNN (R140): `V[X] <- NN`. -/
def execLdImm (x : Reg) (nn : Byte) (s : State) : Result := .next (s.setReg x nn).nextPc

/-- 7XNN (R141): `V[X] <- (V[X] + NN) mod 256`. -/
def execAddImm (x : Reg) (nn : Byte) (s : State) : Result := .next (s.setReg x (s.reg x + nn)).nextPc

end Sys2Proof.Machine
end

