-- ==== Sys2Proof/Machine/IndexRandomDraw.lean ====
section
/-!
DEFINITION. Index load, random, draw and clear (spec/45_index_random_draw.md).
-/

namespace Sys2Proof.Machine

/-- ANNN (R170): `I <- NNN`. -/
def execLdI (nnn : Lit12) (s : State) : Result := .next (s.setI (literal nnn)).nextPc

/-- CXNN (R171): `V[X] <- rnd8() & NN`, `rnd8()` a free value (assumption 4). -/
def execRnd (x : Reg) (nn : Byte) (s : State) : Result :=
  .next (s.setReg x (Config.rnd8 s.draws &&& nn)).countDraw.nextPc

/-- DXYN (R172): the coordinates and all `N` sprite bytes at `I` are read first, then the sprite is drawn. -/
def execDrw (x y : Reg) (n : Nat) (s : State) : Result :=
  deliver ((s.readFromI Config.addrPolicy n).map fun rows => (s.drawSprite (s.reg x).toNat (s.reg y).toNat rows).nextPc)

/-- 00E0 (R173): every pixel 0, `DIRTY` set, `VF` not written. -/
def execCls (s : State) : Result := .next (s.setScreen Screen.blank).nextPc

end Sys2Proof.Machine
end

