-- ==== Sys2Proof/Machine/Skips.lean ====
section
/-!
DEFINITION. Conditional skips (spec/42_skips.md) and key-conditioned skips (spec/46_key_skips.md).
-/

namespace Sys2Proof.Machine

/-- 3XNN (R130): skip if `V[X] == NN`. -/
def execSeImm (x : Reg) (nn : Byte) (s : State) : Result := .next (s.skipIf (s.reg x == nn))

/-- 4XNN (R131): skip if `V[X] != NN`. -/
def execSneImm (x : Reg) (nn : Byte) (s : State) : Result := .next (s.skipIf (s.reg x != nn))

/-- 5XY0 (R132): skip if `V[X] == V[Y]`. -/
def execSeReg (x y : Reg) (s : State) : Result := .next (s.skipIf (s.reg x == s.reg y))

/-- 9XY0 (R133): skip if `V[X] != V[Y]`. -/
def execSneReg (x y : Reg) (s : State) : Result := .next (s.skipIf (s.reg x != s.reg y))

/-- EX9E (R180): skip if the key `V[X] mod 16` is pressed. -/
def execSkp (x : Reg) (s : State) : Result := .next (s.skipIf (s.isPressed (keyIndex (s.reg x))))

/-- EXA1 (R181): skip if the key `V[X] mod 16` is not pressed. -/
def execSknp (x : Reg) (s : State) : Result := .next (s.skipIf (!s.isPressed (keyIndex (s.reg x))))

end Sys2Proof.Machine
end

