-- ==== Sys2Proof/Machine/TimerMisc.lean ====
section
/-!
DEFINITION. Timers, key wait, index add, font, decimal digits and bulk transfer, family 0xF (spec/47_timer_misc.md).
-/

namespace Sys2Proof.Machine

/-- FX07 (R190): `V[X] <- DT`, before this tick's decrement. -/
def execLdVxDt (x : Reg) (s : State) : Result := .next (s.setReg x s.dt).nextPc

/-- FX0A (R191): with no key pressed nothing is written and `PC` holds, so the next tick tries again; otherwise a
pressed key's index goes to `V[X]`. Among several pressed keys the choice is a free value (assumption 5), and a draw is
counted only then. -/
def execLdVxK (x : Reg) (s : State) : Result :=
  match s.pressedKeys with
  | [] => .next s
  | k :: [] => .next (s.setReg x (BitVec.ofNat 8 k.val)).nextPc
  | k :: ks =>
    .next (s.setReg x (BitVec.ofNat 8 (pickKey Config.keyChoice (Config.keyDraw s.draws) k ks).val)).countDraw.nextPc

/-- FX15 (R192): `DT <- V[X]`; the timer phase of the same tick follows. -/
def execLdDtVx (x : Reg) (s : State) : Result := .next (s.setDt (s.reg x)).nextPc

/-- FX18 (R193): `ST <- V[X]`; the timer phase of the same tick follows. -/
def execLdStVx (x : Reg) (s : State) : Result := .next (s.setSt (s.reg x)).nextPc

/-- FX1E (R194): `I <- (I + V[X]) mod 65536`, no flag. -/
def execAddI (x : Reg) (s : State) : Result := .next (s.setI (indexSum s x)).nextPc

/-- FX29 (R195): `I <- FONT_BASE + 5 * (V[X] mod 16)`. -/
def execLdF (x : Reg) (s : State) : Result := .next (s.setI (glyphAddress (s.reg x))).nextPc

/-- FX33 (R196): the hundreds, tens and units of `V[X]` at `I`, `I + 1`, `I + 2`. -/
def execLdB (x : Reg) (s : State) : Result :=
  deliver ((s.storeAtI Config.addrPolicy (decimalDigits (s.reg x))).map State.nextPc)

/-- FX55 (R197): `V[0]` to `V[X]` at `I` to `I + X`; `I` unchanged. -/
def execLdMemVx (x : Reg) (s : State) : Result := deliver ((s.storeAtI Config.addrPolicy (s.regsUpTo x)).map State.nextPc)

/-- FX65 (R198): `V[0]` to `V[X]` from `I` to `I + X`, all reads first; `I` unchanged. -/
def execLdVxMem (x : Reg) (s : State) : Result :=
  deliver ((s.readFromI Config.addrPolicy (x.val + 1)).map fun bytes => (s.loadRegs x bytes).nextPc)

end Sys2Proof.Machine
end

