-- ==== Sys2Proof/Machine/Step.lean ====
section
/-!
DEFINITION. One tick (R100, R101): fetch, decode, execute, timer phase.
-/

namespace Sys2Proof.Machine

/-- `Tick()` (R101). The fetch and the decode come first and may raise (R102, R104); then the instruction executes, and
the timer phase closes the tick. A fault leaves the state as it was before the tick (R107). -/
def step (s : State) : Host.Outcome State Fault Refusal :=
  match fetch Config.addrPolicy s with
  | .error f => .fault f
  | .ok op =>
    match decode op with
    | none => .fault (.unrecognizedInstruction op)
    | some i => endTick (exec i s)

/-- `s` with the table row's word stored at `PC`, where the next tick fetches it; `nbits` is the row's width and the
bits of `w` above it are 0 (assumption 7). -/
def State.withFetchWord (s : State) (nbits w : Nat) : State := s.placeWord (BitVec.ofNat 16 (w % 2 ^ nbits))

end Sys2Proof.Machine
end

