-- ==== Sys2Proof/Machine/HostInterface.lean ====
section
/-!
DEFINITION. The host interface of R218, complete: construction, the tick with what it reports, the key latch, the dirty
flag, the snapshot and the tone signal; and a session of host operations (R234). All of it happens between ticks (R6).
-/

namespace Sys2Proof.Machine

/-- Copy bytes into memory from offset `a` upward. -/
def Memory.load (m : Mem) (a : Nat) (bytes : List Byte) : Mem :=
  Memory.writeAll m (List.range' a bytes.length) bytes

/-- `Construct(P)` (R65, R230): `ProgramTooLarge` when the program exceeds the space from `PROG_BASE` up, else the reset
state with the program's bytes from `PROG_BASE`. -/
def construct (program : List Byte) : Result :=
  if Config.memSize - Config.progBase < program.length then .fault (.programTooLarge program.length)
  else .next (State.reset.setMem (Memory.load State.reset.mem Config.progBase program))

/-- The signal to the audio collaborator (R223). -/
inductive AudioSignal where
  | startTone
  | stopTone
  deriving DecidableEq, Repr

/-- The signal of the state between ticks: from the sound timer alone (R109). -/
def audioSignal (s : State) : AudioSignal := if s.tone then .startTone else .stopTone

/-- What `Tick()` leaves and reports (R210, R221): the state, the fault if one was raised, and the audio signal, which a
faulting tick does not send. -/
structure TickReport where
  state : State
  fault : Option Fault
  audio : Option AudioSignal
  deriving DecidableEq, Repr

/-- The host's `Tick()` (R107, R210, R221): a faulting tick changes nothing and sends no signal. -/
def tick (s : State) : TickReport :=
  match step s with
  | .next t => ⟨t, none, some (audioSignal t)⟩
  | .fault f => ⟨s, some f, none⟩
  | .refused _ => ⟨s, none, none⟩

/-- `SetKey(i, p)` (R222): an index outside `0..15` is outside the contract and refused. -/
def setKey (s : State) (i : Nat) (p : Bool) : Result :=
  if h : i < 16 then .next { s with key := s.key.set i p } else .refused (.keyIndexOutOfRange i)

/-- `TakeDirtyFlag()` (R219): the flag as it stands, and the state with it cleared. -/
def takeDirtyFlag (s : State) : Bool × State := (s.dirty, { s with dirty := false })

/-- `Snapshot()` (R220): the pixels row-major, pixel `(x, y)` at `y * FB_WIDTH + x`. -/
def snapshot (s : State) : List Bool := (s.fb.toList.map (·.toList)).flatten

/-- The numeric fault codes of R200. -/
def faultCode : Fault → Nat
  | .programTooLarge _ => 1
  | .unrecognizedInstruction _ => 2
  | .addressFault _ => 3
  | .stackOverflow _ => 4
  | .stackUnderflow _ => 5
  | .misalignedPc _ => 6

/-- What the host may do to a constructed machine (R218, R234). -/
inductive HostOp where
  | tick
  | setKey (i : Nat) (p : Bool)
  | takeDirtyFlag
  | snapshot
  deriving DecidableEq, Repr

/-- The state a host operation leaves; a refused one leaves the state as it is. -/
def applyOp (s : State) : HostOp → State
  | .tick => (tick s).state
  | .setKey i p =>
    match setKey s i p with
    | .next t => t
    | .fault _ => s
    | .refused _ => s
  | .takeDirtyFlag => (takeDirtyFlag s).2
  | .snapshot => s

/-- A session: any mix of host operations (R234). -/
def runOps (s : State) (ops : List HostOp) : State := ops.foldl applyOp s

end Sys2Proof.Machine
end

