-- ==== Sys2Proof/Safety.lean ====
section
/-!
DEFINITION. The terms claims are stated in: what an execution leaves unchanged (frames), which faults the rules give an
instruction and a tick, where `PC` goes, the invariant of the machine, sessions of the host, and runs of ticks.
-/

namespace Sys2Proof.Machine

/-! ### Frames -/

/-- The parts of the state other than the general registers and `PC` (R39), and the model's own draw counter. -/
inductive Part where
  | i | stk | sp | dt | st | mem | fb | dirty | key | draws
  deriving DecidableEq, Repr

/-- The part is the same in both states; memory is compared by what every address reads as. -/
def Part.same (s t : State) : Part → Prop
  | .i => t.i = s.i
  | .stk => t.stk = s.stk
  | .sp => t.sp = s.sp
  | .dt => t.dt = s.dt
  | .st => t.st = s.st
  | .mem => ∀ a, t.byteAt a = s.byteAt a
  | .fb => t.fb = s.fb
  | .dirty => t.dirty = s.dirty
  | .key => t.key = s.key
  | .draws => t.draws = s.draws

/-- From `s` to `t` nothing has changed but the listed registers, the listed parts and `PC`. -/
def Frame (regs : List Reg) (parts : List Part) (s t : State) : Prop :=
  (∀ r, r ∉ regs → t.reg r = s.reg r) ∧ ∀ p, p ∉ parts → p.same s t

/-- The general registers an instruction writes (R22): its destination, the range of FX65, and `VF` for the six flag
writers of R21. -/
def destRegs : Instr → List Reg
  | .ldImm x _ | .addImm x _ | .rnd x _ => [x]
  | .ldReg x _ | .orReg x _ | .andReg x _ | .xorReg x _ => [x]
  | .addReg x _ | .sub x _ | .shr x _ | .subn x _ | .shl x _ => [x, vf]
  | .drw _ _ _ => [vf]
  | .ldVxDt x | .ldVxK x => [x]
  | .ldVxMem x => (List.finRange 16).filter (fun r => r.val ≤ x.val)
  | .cls | .ret | .jp _ | .call _ | .ldI _ | .jpV0 _ => []
  | .seImm _ _ | .sneImm _ _ | .seReg _ _ | .sneReg _ _ | .skp _ | .sknp _ => []
  | .ldDtVx _ | .ldStVx _ | .addI _ | .ldF _ | .ldB _ | .ldMemVx _ => []

/-- How many bytes from `I` upward an instruction writes (R52, R66): FX33 three, FX55 `X + 1`, every other none. -/
def storedBytes : Instr → Nat
  | .ldB _ => 3
  | .ldMemVx x => x.val + 1
  | .ldImm _ _ | .addImm _ _ | .rnd _ _ | .ldReg _ _ | .orReg _ _ | .andReg _ _ | .xorReg _ _ => 0
  | .addReg _ _ | .sub _ _ | .shr _ _ | .subn _ _ | .shl _ _ | .drw _ _ _ => 0
  | .cls | .ret | .jp _ | .call _ | .ldI _ | .jpV0 _ => 0
  | .seImm _ _ | .sneImm _ _ | .seReg _ _ | .sneReg _ _ | .skp _ | .sknp _ => 0
  | .ldVxDt _ | .ldVxK _ | .ldVxMem _ | .ldDtVx _ | .ldStVx _ | .addI _ | .ldF _ => 0

/-! ### The instruction at `PC` -/

/-- Every word of a row, given by its `match` and `mask` (R87), decodes to the instruction `f` reads from it. -/
def DecodesAs (matchBits maskBits : Word) (f : Word → Instr) : Prop :=
  ∀ op, op &&& maskBits = matchBits → decode op = some (f op)

/-- The next tick of `s` fetches and decodes `i` (R101, phases 1 and 2). -/
def Executes (s : State) (i : Instr) : Prop :=
  ∃ op, fetch Config.addrPolicy s = .ok op ∧ decode op = some i

/-! ### Faults as the rules list them -/

/-- The lowest out-of-range address of an access of `n` bytes from `I` (R203). -/
def firstOutside (s : State) : Nat := max s.i.toNat Config.memSize

/-- An instruction's own fault (R203 to R205, R207, R209): at most one each. -/
def execFault (i : Instr) (s : State) : Option Fault :=
  match i with
  | .call _ => if s.sp.val = 16 then some (.stackOverflow s.pc) else none
  | .ret => if s.sp.val = 0 then some (.stackUnderflow s.pc) else none
  | .drw _ _ n => if 1 ≤ n ∧ Config.memSize ≤ s.i.toNat + n - 1 then some (.addressFault (firstOutside s)) else none
  | .ldB _ => if Config.memSize ≤ s.i.toNat + 2 then some (.addressFault (firstOutside s)) else none
  | .ldMemVx x => if Config.memSize ≤ s.i.toNat + x.val then some (.addressFault (firstOutside s)) else none
  | .ldVxMem x => if Config.memSize ≤ s.i.toNat + x.val then some (.addressFault (firstOutside s)) else none
  | .cls | .jp _ | .ldI _ | .jpV0 _ | .ldImm _ _ | .addImm _ _ | .rnd _ _ => none
  | .seImm _ _ | .sneImm _ _ | .seReg _ _ | .sneReg _ _ | .skp _ | .sknp _ => none
  | .ldReg _ _ | .orReg _ _ | .andReg _ _ | .xorReg _ _ => none
  | .addReg _ _ | .sub _ _ | .shr _ _ | .subn _ _ | .shl _ _ => none
  | .ldVxDt _ | .ldVxK _ | .ldDtVx _ | .ldStVx _ | .addI _ | .ldF _ => none

/-- The two bytes at `PC` as a word, the first high-order (R53). -/
def wordAtPc (s : State) : Word := wordOfBytes (s.byteAt s.pc.toNat) (s.byteAt (s.pc.toNat + 1))

/-- The fault of a tick, the first in the order of R209; `none` is a safe tick. -/
def stepFault (s : State) : Option Fault :=
  if s.pc.toNat % 2 = 1 then some (.misalignedPc s.pc)
  else if Config.memSize ≤ s.pc.toNat then some (.addressFault s.pc.toNat)
  else
    match decode (wordAtPc s) with
    | none => some (.unrecognizedInstruction (wordAtPc s))
    | some i => execFault i s

/-! ### Where `PC` goes (R106) -/

/-- The return address `RET` takes: `STK[SP - 1]` (R123). -/
def returnAddress (s : State) : Word := s.stk.toList.getD (s.sp.val - 1) 0

/-- A skip's destination (R134). -/
def skipTarget (s : State) (taken : Bool) : Word := if taken then s.pc + 4 else s.pc + 2

/-- `PC` after an instruction that does not fault: the complete classification of R106. -/
def pcAfter (i : Instr) (s : State) : Word :=
  match i with
  | .jp nnn => BitVec.ofNat 16 nnn.toNat
  | .call nnn => BitVec.ofNat 16 nnn.toNat
  | .jpV0 nnn => BitVec.ofNat 16 (nnn.toNat + (s.reg 0).toNat)
  | .ret => returnAddress s
  | .seImm x nn => skipTarget s (decide (s.reg x = nn))
  | .sneImm x nn => skipTarget s (decide (s.reg x ≠ nn))
  | .seReg x y => skipTarget s (decide (s.reg x = s.reg y))
  | .sneReg x y => skipTarget s (decide (s.reg x ≠ s.reg y))
  | .skp x => skipTarget s (s.isPressed (keyIndex (s.reg x)))
  | .sknp x => skipTarget s (!s.isPressed (keyIndex (s.reg x)))
  | .ldVxK _ => if s.pressedKeys = [] then s.pc else s.pc + 2
  | .cls | .ldI _ | .ldImm _ _ | .addImm _ _ | .rnd _ _ | .drw _ _ _ => s.pc + 2
  | .ldReg _ _ | .orReg _ _ | .andReg _ _ | .xorReg _ _ => s.pc + 2
  | .addReg _ _ | .sub _ _ | .shr _ _ | .subn _ _ | .shl _ _ => s.pc + 2
  | .ldVxDt _ | .ldDtVx _ | .ldStVx _ | .addI _ | .ldF _ | .ldB _ | .ldMemVx _ | .ldVxMem _ => s.pc + 2

/-! ### Sprites -/

/-- A set bit of the `n` sprite bytes at `I` falls on pixel `p` when the sprite is drawn at `(x0, y0)`: row `r`, column
`c`, the pixel wrapped on both axes (R174). -/
def SpriteCovers (s : State) (x0 y0 n : Nat) (p : Pixel) : Prop :=
  ∃ r c : Nat, r < n ∧ c < 8 ∧ (s.byteAt (s.i.toNat + r)).getLsbD (7 - c) = true ∧
    p.1.val = (x0 + c) % Config.fbWidth ∧ p.2.val = (y0 + r) % Config.fbHeight

/-! ### The invariant -/

/-- What every state of a run satisfies: memory is in canonical form (R51); every return address in use is even and at
most `MEM_SIZE` (R56, R122); `PC` is at most `0x10FE`, the largest target of BNNN (R26, R124). -/
structure CoreInv (s : State) : Prop where
  memory : Memory.wf s.mem = true
  returns : ∀ k : Fin 16, k.val < s.sp.val → s.stk[k].toNat % 2 = 0 ∧ s.stk[k].toNat ≤ Config.memSize
  pcReach : s.pc.toNat ≤ 0x10FE

/-- A state the host can bring the machine to: a construction, then any mix of host operations (R234). -/
def Reachable (s : State) : Prop :=
  ∃ program ops s0, construct program = .next s0 ∧ s = runOps s0 ops

/-! ### Runs of ticks -/

/-- `n` ticks, ending at the first fault or refusal. -/
def runTicks : Nat → State → Result
  | 0, s => .next s
  | n + 1, s =>
    match step s with
    | .next t => runTicks n t
    | .fault f => .fault f
    | .refused r => .refused r

/-- The halt idiom (R242): the word at `PC`, fetched without a fault, is `JP` to itself. -/
def Halted (s : State) : Prop := fetch Config.addrPolicy s = .ok (0x1000#16 + s.pc)

/-- Waiting for a key (R37): the instruction at `PC` is FX0A and no key is pressed. -/
def Waiting (s : State) : Prop := (∃ x, Executes s (.ldVxK x)) ∧ s.pressedKeys = []

/-- The states differ in `DIRTY` and `ST` alone, which no instruction reads (R30, R34). -/
def SameButSilent (s u : State) : Prop := u = { s with dirty := u.dirty, st := u.st }

end Sys2Proof.Machine
end

