-- ==== Sys2Proof/Certificates/Slice0/Obligations.lean ====
section
/-!
DEFINITION. The statements for the provers. Each docstring names the rules of spec/ it formalises, and, where a clause
rests on a choice the spec marks as its own (a `[decision: …]` or a `[derived: …]`) or on a choice of the model, says so.
-/

open Sys2Proof Sys2Proof.Machine

/-! ### Immediate load and add, family 0x8 -/

/-- R140: operands, encoding, pseudocode, no flag effect, no fault. -/
def Obligations.LoadImmediate : Prop :=
  DecodesAs 0x6000#16 0xF000#16 (fun op => .ldImm (regX op) (fieldNN op)) ∧
  ∀ x nn s, ∃ t, exec (.ldImm x nn) s = .next t ∧ t.reg x = nn ∧ t.pc = s.pc + 2 ∧ Frame [x] [] s t

/-- 7XNN: the sum modulo 256, with no flag effect. Its numeric code is the spec's decision D29 (assumption 10), as is that
of every statement below whose encoding the source does not show. -/
def Obligations.AddImmediate : Prop :=
  DecodesAs 0x7000#16 0xF000#16 (fun op => .addImm (regX op) (fieldNN op)) ∧
  ∀ x nn s, ∃ t, exec (.addImm x nn) s = .next t ∧
    (t.reg x).toNat = ((s.reg x).toNat + nn.toNat) % 256 ∧ t.pc = s.pc + 2 ∧ Frame [x] [] s t

/-- 8XY0 to 8XY3 (R151 to R154): assign, OR, AND, XOR; `VF` is left as it was unless it is the destination. The numeric
codes are the spec's decision D29 (assumption 10). -/
def Obligations.AssignAndLogic : Prop :=
  (DecodesAs 0x8000#16 0xF00F#16 (fun op => .ldReg (regX op) (regY op)) ∧
    ∀ x y s, ∃ t, exec (.ldReg x y) s = .next t ∧
      t.reg x = s.reg y ∧ t.pc = s.pc + 2 ∧ Frame [x] [] s t) ∧
  (DecodesAs 0x8001#16 0xF00F#16 (fun op => .orReg (regX op) (regY op)) ∧
    ∀ x y s, ∃ t, exec (.orReg x y) s = .next t ∧
      t.reg x = s.reg x ||| s.reg y ∧ t.pc = s.pc + 2 ∧ Frame [x] [] s t) ∧
  (DecodesAs 0x8002#16 0xF00F#16 (fun op => .andReg (regX op) (regY op)) ∧
    ∀ x y s, ∃ t, exec (.andReg x y) s = .next t ∧
      t.reg x = s.reg x &&& s.reg y ∧ t.pc = s.pc + 2 ∧ Frame [x] [] s t) ∧
  (DecodesAs 0x8003#16 0xF00F#16 (fun op => .xorReg (regX op) (regY op)) ∧
    ∀ x y s, ∃ t, exec (.xorReg x y) s = .next t ∧
      t.reg x = s.reg x ^^^ s.reg y ∧ t.pc = s.pc + 2 ∧ Frame [x] [] s t)

/-- The sum and the carry of 8XY4. That the flag is what remains when `X = 15` is the spec's decision D14
(assumption 12): "result to `V[X]`; flag to `VF` last". -/
def Obligations.AddWithCarry : Prop :=
  DecodesAs 0x8004#16 0xF00F#16 (fun op => .addReg (regX op) (regY op)) ∧
  ∀ x y s, ∃ t, exec (.addReg x y) s = .next t ∧
    (x ≠ vf → (t.reg x).toNat = ((s.reg x).toNat + (s.reg y).toNat) % 256) ∧
    t.reg vf = (if (s.reg x).toNat + (s.reg y).toNat > 255 then 1 else 0) ∧
    t.pc = s.pc + 2 ∧ Frame [x, vf] [] s t

/-- Both orderings of subtraction, 8XY5 and 8XY7, with the no-borrow flag. That the flag is what remains when `X = 15`
is the spec's decision D14 (assumption 12): "flag to `VF` last". -/
def Obligations.SubtractBothOrderings : Prop :=
  (DecodesAs 0x8005#16 0xF00F#16 (fun op => .sub (regX op) (regY op)) ∧
    ∀ x y s, ∃ t, exec (.sub x y) s = .next t ∧
      (x ≠ vf → ((t.reg x).toNat : Int) = ((s.reg x).toNat - (s.reg y).toNat : Int) % 256) ∧
      t.reg vf = (if (s.reg x).toNat ≥ (s.reg y).toNat then 1 else 0) ∧
      t.pc = s.pc + 2 ∧ Frame [x, vf] [] s t) ∧
  (DecodesAs 0x8007#16 0xF00F#16 (fun op => .subn (regX op) (regY op)) ∧
    ∀ x y s, ∃ t, exec (.subn x y) s = .next t ∧
      (x ≠ vf → ((t.reg x).toNat : Int) = ((s.reg y).toNat - (s.reg x).toNat : Int) % 256) ∧
      t.reg vf = (if (s.reg y).toNat ≥ (s.reg x).toNat then 1 else 0) ∧
      t.pc = s.pc + 2 ∧ Frame [x, vf] [] s t)

/-- The shifts by one, 8XY6 and 8XYE. That `V[X]` itself is shifted and `Y` ignored is the spec's decision D15
(assumption 13), that the flag remains when `X = 15` its decision D14 (assumption 12). -/
def Obligations.ShiftsByOne : Prop :=
  (DecodesAs 0x8006#16 0xF00F#16 (fun op => .shr (regX op) (regY op)) ∧
    ∀ x y s, ∃ t, exec (.shr x y) s = .next t ∧
      (x ≠ vf → (t.reg x).toNat = (s.reg x).toNat / 2) ∧
      (t.reg vf).toNat = (s.reg x).toNat % 2 ∧ t.pc = s.pc + 2 ∧ Frame [x, vf] [] s t) ∧
  (DecodesAs 0x800E#16 0xF00F#16 (fun op => .shl (regX op) (regY op)) ∧
    ∀ x y s, ∃ t, exec (.shl x y) s = .next t ∧
      (x ≠ vf → (t.reg x).toNat = (s.reg x).toNat * 2 % 256) ∧
      (t.reg vf).toNat = (s.reg x).toNat / 128 ∧ t.pc = s.pc + 2 ∧ Frame [x, vf] [] s t)

/-! ### Skips -/

/-- 3XNN and 4XNN (R130, R131): compare a register with an immediate. The numeric codes are the spec's decision D29
(assumption 10). -/
def Obligations.SkipsOnImmediate : Prop :=
  (DecodesAs 0x3000#16 0xF000#16 (fun op => .seImm (regX op) (fieldNN op)) ∧
    ∀ x nn s, ∃ t, exec (.seImm x nn) s = .next t ∧
      t.pc = (if s.reg x = nn then s.pc + 4 else s.pc + 2) ∧ Frame [] [] s t) ∧
  (DecodesAs 0x4000#16 0xF000#16 (fun op => .sneImm (regX op) (fieldNN op)) ∧
    ∀ x nn s, ∃ t, exec (.sneImm x nn) s = .next t ∧
      t.pc = (if s.reg x ≠ nn then s.pc + 4 else s.pc + 2) ∧ Frame [] [] s t)

/-- Compare two registers, 5XY0 and 9XY0. That a word of these families with a low nibble other than 0 is unrecognized is
the spec's decision D10 (assumption 10): "exact decode". -/
def Obligations.SkipsOnRegisters : Prop :=
  (DecodesAs 0x5000#16 0xF00F#16 (fun op => .seReg (regX op) (regY op)) ∧
    ∀ x y s, ∃ t, exec (.seReg x y) s = .next t ∧
      t.pc = (if s.reg x = s.reg y then s.pc + 4 else s.pc + 2) ∧ Frame [] [] s t) ∧
  (DecodesAs 0x9000#16 0xF00F#16 (fun op => .sneReg (regX op) (regY op)) ∧
    ∀ x y s, ∃ t, exec (.sneReg x y) s = .next t ∧
      t.pc = (if s.reg x ≠ s.reg y then s.pc + 4 else s.pc + 2) ∧ Frame [] [] s t) ∧
  ∀ op, (fieldF op = 0x5#4 ∨ fieldF op = 0x9#4) → fieldN op ≠ 0x0#4 → decode op = none

/-- The key skips EX9E and EXA1. The key index `V[X] mod 16` is the spec's decision D16 (assumption 14). -/
def Obligations.SkipsOnKeys : Prop :=
  (DecodesAs 0xE09E#16 0xF0FF#16 (fun op => .skp (regX op)) ∧
    ∀ x s, ∃ t, exec (.skp x) s = .next t ∧
      (∀ k : Fin 16, k.val = (s.reg x).toNat % 16 →
        t.pc = if s.key[k] = true then s.pc + 4 else s.pc + 2) ∧ Frame [] [] s t) ∧
  (DecodesAs 0xE0A1#16 0xF0FF#16 (fun op => .sknp (regX op)) ∧
    ∀ x s, ∃ t, exec (.sknp x) s = .next t ∧
      (∀ k : Fin 16, k.val = (s.reg x).toNat % 16 →
        t.pc = if s.key[k] = false then s.pc + 4 else s.pc + 2) ∧ Frame [] [] s t)

/-! ### Control flow -/

/-- 1NNN sets `PC` to `NNN`, whatever `PC` was, and nothing else. The fault of the tick after a jump to an odd address
is the spec's decision D6 (assumption 11). -/
def Obligations.JumpSetsPc : Prop :=
  DecodesAs 0x1000#16 0xF000#16 (fun op => .jp (fieldNNN op)) ∧
  ∀ nnn s, ∃ t, exec (.jp nnn) s = .next t ∧ t.pc.toNat = nnn.toNat ∧ Frame [] [] s t ∧
    (nnn.toNat % 2 = 1 → step t = .fault (.misalignedPc t.pc))

/-- 2NNN pushes `PC + 2` and jumps. The fault of a call with 16 entries in use is the spec's decision D7
(assumption 9). -/
def Obligations.CallPushesAndJumps : Prop :=
  DecodesAs 0x2000#16 0xF000#16 (fun op => .call (fieldNNN op)) ∧
  ∀ nnn s,
    (s.sp.val < 16 → ∃ t, exec (.call nnn) s = .next t ∧
      (∀ k : Fin 16, t.stk[k] = if k.val = s.sp.val then s.pc + 2 else s.stk[k]) ∧
      t.sp.val = s.sp.val + 1 ∧ t.pc.toNat = nnn.toNat ∧ Frame [] [.stk, .sp] s t) ∧
    (s.sp.val = 16 → exec (.call nnn) s = .fault (.stackOverflow s.pc))

/-- 00EE takes `STK[SP - 1]` into `PC` and leaves the entry where it is. The fault of a return with an empty stack is the
spec's decision D7 (assumption 9). -/
def Obligations.ReturnPops : Prop :=
  DecodesAs 0x00EE#16 0xFFFF#16 (fun _ => .ret) ∧
  ∀ s,
    (0 < s.sp.val → ∃ t, exec .ret s = .next t ∧
      (∀ k : Fin 16, k.val + 1 = s.sp.val → t.pc = s.stk[k]) ∧ t.sp.val + 1 = s.sp.val ∧ Frame [] [.sp] s t) ∧
    (s.sp.val = 0 → exec .ret s = .fault (.stackUnderflow s.pc))

/-- The source's property of CALL and RET: whatever ran in between, a return that finds the stack as the call left it
resumes at the call's fall-through address with the stack pointer the call found. -/
def Obligations.CallThenReturn : Prop :=
  ∀ nnn s t u, exec (.call nnn) s = .next t → u.stk = t.stk → u.sp = t.sp →
    ∃ w, exec .ret u = .next w ∧ w.pc = s.pc + 2 ∧ w.sp = s.sp

/-- BNNN: `PC` is `NNN + V[0]`, at most 4350. That the sum is not reduced to 12 bits is the spec's decision D26
(assumption 18). -/
def Obligations.IndexedJump : Prop :=
  DecodesAs 0xB000#16 0xF000#16 (fun op => .jpV0 (fieldNNN op)) ∧
  ∀ nnn s, ∃ t, exec (.jpV0 nnn) s = .next t ∧
    t.pc.toNat = nnn.toNat + (s.reg 0).toNat ∧ t.pc.toNat ≤ 4350 ∧ Frame [] [] s t

/-- The complete classification of what `PC` becomes (R106). That the target of BNNN is not reduced and that a key skip
tests key `V[X] mod 16` are the spec's decisions D26, D16 (assumptions 18, 14). That FX0A advances when any key is
pressed, one held from before included, is the spec's resolution C1 (assumption 25). -/
def Obligations.PcDiscipline : Prop :=
  ∀ i s t, exec i s = .next t → t.pc = pcAfter i s

/-! ### Index register, random byte -/

/-- R170: `I` becomes `NNN`, its top four bits 0; no memory is accessed. -/
def Obligations.LoadIndex : Prop :=
  DecodesAs 0xA000#16 0xF000#16 (fun op => .ldI (fieldNNN op)) ∧
  ∀ nnn s, ∃ t, exec (.ldI nnn) s = .next t ∧ t.i.toNat = nnn.toNat ∧ t.pc = s.pc + 2 ∧ Frame [] [.i] s t

/-- CXNN: the draw masked by `NN`; every bit that is 0 in `NN` is 0 in the result. The draw is a free value, which the
spec's decision D28 makes it (assumption 4); the draw counter is the model's own (assumption 6). -/
def Obligations.RandomMasked : Prop :=
  DecodesAs 0xC000#16 0xF000#16 (fun op => .rnd (regX op) (fieldNN op)) ∧
  ∀ x nn s, ∃ t, exec (.rnd x nn) s = .next t ∧
    t.reg x = Config.rnd8 s.draws &&& nn ∧
    (∀ b, nn.getLsbD b = false → (t.reg x).getLsbD b = false) ∧
    t.draws = s.draws + 1 ∧ t.pc = s.pc + 2 ∧ Frame [x] [.draws] s t

/-- FX1E: the 16-bit sum, wrapping, with no flag; no flag and no 12-bit reduction are the spec's decision D18
(assumption 16). -/
def Obligations.AddToIndex : Prop :=
  DecodesAs 0xF01E#16 0xF0FF#16 (fun op => .addI (regX op)) ∧
  ∀ x s, ∃ t, exec (.addI x) s = .next t ∧
    t.i.toNat = (s.i.toNat + (s.reg x).toNat) % 65536 ∧ t.pc = s.pc + 2 ∧ Frame [] [.i] s t

/-- FX29: `I` is the address of the glyph the low nibble selects, and in a machine just constructed the five bytes there
are that glyph's. `FONT_BASE` and the font's bytes are the spec's decisions D3, D24 (assumptions 1, 3). -/
def Obligations.FontGlyph : Prop :=
  DecodesAs 0xF029#16 0xF0FF#16 (fun op => .ldF (regX op)) ∧
  ∀ x s, ∃ t, exec (.ldF x) s = .next t ∧
    t.i.toNat = Config.fontBase + 5 * ((s.reg x).toNat % 16) ∧ t.pc = s.pc + 2 ∧ Frame [] [.i] s t ∧
    ∀ program s0 r, construct program = .next s0 → r < 5 →
      Config.fontData[5 * ((s.reg x).toNat % 16) + r]? = some (s0.byteAt (t.i.toNat + r))

/-! ### Framebuffer -/

/-- DXYN: when the sprite's bytes lie inside memory (or there are none), exactly the pixels its set bits fall on change,
each is toggled, `VF` says whether one of them was lit, `DIRTY` is set. The coordinates are those before `VF` is
written, as R172 infers (assumption 29). The fault outside memory is the spec's decision D5 (assumption 2). -/
def Obligations.DrawSprite : Prop :=
  DecodesAs 0xD000#16 0xF000#16 (fun op => .drw (regX op) (regY op) (fieldN op).toNat) ∧
  ∀ x y n s, n < 16 →
    ((n = 0 ∨ s.i.toNat + n ≤ Config.memSize) → ∃ t, exec (.drw x y n) s = .next t ∧
      (∀ p, SpriteCovers s (s.reg x).toNat (s.reg y).toNat n p → t.fb.pixel p = !s.fb.pixel p) ∧
      (∀ p, ¬ SpriteCovers s (s.reg x).toNat (s.reg y).toNat n p → t.fb.pixel p = s.fb.pixel p) ∧
      ((∃ p, SpriteCovers s (s.reg x).toNat (s.reg y).toNat n p ∧ s.fb.pixel p = true) → t.reg vf = 1) ∧
      ((¬ ∃ p, SpriteCovers s (s.reg x).toNat (s.reg y).toNat n p ∧ s.fb.pixel p = true) → t.reg vf = 0) ∧
      t.dirty = true ∧ t.pc = s.pc + 2 ∧ Frame [vf] [.fb, .dirty] s t) ∧
    (1 ≤ n → Config.memSize < s.i.toNat + n →
      exec (.drw x y n) s = .fault (.addressFault (max s.i.toNat Config.memSize)))

/-- The source's double-draw property: two draws of the same sprite at the same coordinates restore the framebuffer, and
if the sprite sets a pixel at least one of them reports a collision; over a clear framebuffer it is the second. This is
the spec's `[derived: …]` of R175 (a); that with `X` or `Y` 15 the coordinate is read before `VF` is written is that of
R172 (assumption 29). -/
def Obligations.DoubleDrawRestores : Prop :=
  ∀ x y n s t u w, n < 16 →
    exec (.drw x y n) s = .next t → exec (.drw x y n) u = .next w →
    u.fb = t.fb → u.reg x = s.reg x → u.reg y = s.reg y → u.i = s.i →
    (∀ r, r < n → u.byteAt (s.i.toNat + r) = s.byteAt (s.i.toNat + r)) →
    w.fb = s.fb ∧
    ((∃ p, SpriteCovers s (s.reg x).toNat (s.reg y).toNat n p) → t.reg vf = 1 ∨ w.reg vf = 1) ∧
    ((∃ p, SpriteCovers s (s.reg x).toNat (s.reg y).toNat n p) →
      (∀ p, SpriteCovers s (s.reg x).toNat (s.reg y).toNat n p → s.fb.pixel p = false) →
      t.reg vf = 0 ∧ w.reg vf = 1)

/-- 00E0 zeroes the grid and leaves `VF`. That it sets `DIRTY` is the spec's decision D9 (assumption 17). -/
def Obligations.ClearScreen : Prop :=
  DecodesAs 0x00E0#16 0xFFFF#16 (fun _ => .cls) ∧
  ∀ s, ∃ t, exec .cls s = .next t ∧ (∀ p, t.fb.pixel p = false) ∧ t.dirty = true ∧
    t.pc = s.pc + 2 ∧ Frame [] [.fb, .dirty] s t

/-! ### Timers and keys -/

/-- FX07 reads `DT` before the decrement of its own tick (R190); in the tick that executes it, `DT` then counts down. That
phase order is the spec's `[derived: …]` of R108 (assumption 19). -/
def Obligations.ReadDelayTimer : Prop :=
  DecodesAs 0xF007#16 0xF0FF#16 (fun op => .ldVxDt (regX op)) ∧
  (∀ x s, ∃ t, exec (.ldVxDt x) s = .next t ∧ t.reg x = s.dt ∧ t.pc = s.pc + 2 ∧ Frame [x] [] s t) ∧
  ∀ x s, Executes s (.ldVxDt x) →
    ∃ t, step s = .next t ∧ t.reg x = s.dt ∧ t.dt.toNat = s.dt.toNat - 1

/-- R192, R193: FX15 and FX18 write their timer, and the timer phase of the same tick counts it down once; the tone of
FX18's tick is on exactly when the timer is then not zero. The phase order and the post-decrement tone are the spec's
`[derived: …]` of R108 and its decision D13 (assumptions 19, 20). -/
def Obligations.SetTimers : Prop :=
  (DecodesAs 0xF015#16 0xF0FF#16 (fun op => .ldDtVx (regX op)) ∧
    (∀ x s, ∃ t, exec (.ldDtVx x) s = .next t ∧ t.dt = s.reg x ∧ t.pc = s.pc + 2 ∧ Frame [] [.dt] s t) ∧
    ∀ x s, Executes s (.ldDtVx x) → ∃ t, step s = .next t ∧ t.dt.toNat = (s.reg x).toNat - 1) ∧
  (DecodesAs 0xF018#16 0xF0FF#16 (fun op => .ldStVx (regX op)) ∧
    (∀ x s, ∃ t, exec (.ldStVx x) s = .next t ∧ t.st = s.reg x ∧ t.pc = s.pc + 2 ∧ Frame [] [.st] s t) ∧
    ∀ x s, Executes s (.ldStVx x) → ∃ t, step s = .next t ∧ t.st.toNat = (s.reg x).toNat - 1 ∧
      (t.tone = true ↔ 2 ≤ (s.reg x).toNat))

/-- FX0A: with no key pressed it writes nothing and `PC` holds; otherwise it completes with a pressed key's index. Which
of several pressed keys is a free value (assumption 5), which the spec's decision D17 lets a model admit; with one key
pressed it is that key and nothing is drawn. That a key held from before completes it is the spec's resolution C1
(assumption 25). -/
def Obligations.KeyWait : Prop :=
  DecodesAs 0xF00A#16 0xF0FF#16 (fun op => .ldVxK (regX op)) ∧
  ∀ x s,
    ((∀ k : Fin 16, s.key[k] = false) → exec (.ldVxK x) s = .next s) ∧
    ((∃ k : Fin 16, s.key[k] = true) → ∃ t, exec (.ldVxK x) s = .next t ∧
      (∃ k : Fin 16, s.key[k] = true ∧ (t.reg x).toNat = k.val) ∧ t.pc = s.pc + 2 ∧ Frame [x] [.draws] s t) ∧
    (∀ k : Fin 16, (∀ j : Fin 16, s.key[j] = true ↔ j = k) → ∃ t, exec (.ldVxK x) s = .next t ∧
      (t.reg x).toNat = k.val ∧ t.pc = s.pc + 2 ∧ Frame [x] [] s t)

/-- The timer phase closes every tick that does not fault: the instruction's own write of a timer first, then one
countdown of each, never below zero. That it also closes a waiting tick is the spec's decision D27 (assumption 19). -/
def Obligations.TimerPhaseClosesTick : Prop :=
  ∀ s t i u, step s = .next t → Executes s i → exec i s = .next u →
    t = { u with dt := t.dt, st := t.st } ∧
    t.dt.toNat = u.dt.toNat - 1 ∧ t.st.toNat = u.st.toNat - 1

/-- After `n` ticks without a fault and without FX15 among them `DT` is `max(d - n, 0)`; the same for `ST` and FX18. This
is the spec's `[derived: …]` of R112 (a). That a tick in which FX0A waits counts among the `n` is the spec's decision D27
(assumption 19). -/
def Obligations.TimersCountTicks : Prop :=
  ∀ n s t, runTicks n s = .next t →
    ((∀ k u x, k < n → runTicks k s = .next u → ¬ Executes u (.ldDtVx x)) → t.dt.toNat = s.dt.toNat - n) ∧
    ((∀ k u x, k < n → runTicks k s = .next u → ¬ Executes u (.ldStVx x)) → t.st.toNat = s.st.toNat - n)

/-- A waiting machine stays where it is for as many ticks as no key is pushed, its timers counting down; once the host
has pushed a key the very next tick completes. Timers running in a wait are the spec's decision D27 (assumption 19). -/
def Obligations.KeyWaitHolds : Prop :=
  ∀ s, Waiting s →
    (∀ n, ∃ t, runTicks n s = .next t ∧ Waiting t ∧ t.pc = s.pc ∧ Frame [] [.dt, .st] s t ∧
      t.dt.toNat = s.dt.toNat - n ∧ t.st.toNat = s.st.toNat - n) ∧
    ∀ i u, setKey s i true = .next u → ∃ t, step u = .next t ∧ t.pc = s.pc + 2

/-- After a tick without a fault the audio signal says whether the sound timer is then not zero; a faulting tick sends
none. The post-decrement value is the spec's decision D13 (assumption 20). -/
def Obligations.AudioFollowsSoundTimer : Prop :=
  ∀ s, (∀ t, step s = .next t → (tick s).audio = some (if t.st.toNat = 0 then .stopTone else .startTone)) ∧
    ∀ f, step s = .fault f → (tick s).audio = none

/-! ### Stores and loads through `I` -/

/-- FX33: the three decimal digits at `I`, `I + 1`, `I + 2`, every other byte as before. The fault outside memory is the
spec's decision D5 (assumption 2). -/
def Obligations.DecimalDigits : Prop :=
  DecodesAs 0xF033#16 0xF0FF#16 (fun op => .ldB (regX op)) ∧
  ∀ x s,
    (s.i.toNat + 2 < Config.memSize → ∃ t, exec (.ldB x) s = .next t ∧
      (t.byteAt s.i.toNat).toNat = (s.reg x).toNat / 100 ∧
      (t.byteAt (s.i.toNat + 1)).toNat = (s.reg x).toNat / 10 % 10 ∧
      (t.byteAt (s.i.toNat + 2)).toNat = (s.reg x).toNat % 10 ∧
      (∀ a, (a < s.i.toNat ∨ s.i.toNat + 2 < a) → t.byteAt a = s.byteAt a) ∧
      t.pc = s.pc + 2 ∧ Frame [] [.mem] s t) ∧
    (Config.memSize ≤ s.i.toNat + 2 →
      exec (.ldB x) s = .fault (.addressFault (max s.i.toNat Config.memSize)))

/-- FX55: `V[k]` at `I + k` for `k = 0..X`, every other byte as before. That `I` is unchanged is the spec's decision D19
(assumption 15), the fault outside memory its decision D5 (assumption 2). -/
def Obligations.StoreRegisters : Prop :=
  DecodesAs 0xF055#16 0xF0FF#16 (fun op => .ldMemVx (regX op)) ∧
  ∀ x s,
    (s.i.toNat + x.val < Config.memSize → ∃ t, exec (.ldMemVx x) s = .next t ∧
      (∀ k : Reg, k.val ≤ x.val → t.byteAt (s.i.toNat + k.val) = s.reg k) ∧
      (∀ a, (a < s.i.toNat ∨ s.i.toNat + x.val < a) → t.byteAt a = s.byteAt a) ∧
      t.pc = s.pc + 2 ∧ Frame [] [.mem] s t) ∧
    (Config.memSize ≤ s.i.toNat + x.val →
      exec (.ldMemVx x) s = .fault (.addressFault (max s.i.toNat Config.memSize)))

/-- FX65: `V[k]` from `I + k` for `k = 0..X`, the registers above `X` as before. That `I` is unchanged is the spec's
decision D19 (assumption 15), the fault outside memory its decision D5 (assumption 2). -/
def Obligations.LoadRegisters : Prop :=
  DecodesAs 0xF065#16 0xF0FF#16 (fun op => .ldVxMem (regX op)) ∧
  ∀ x s,
    (s.i.toNat + x.val < Config.memSize → ∃ t, exec (.ldVxMem x) s = .next t ∧
      (∀ k : Reg, k.val ≤ x.val → t.reg k = s.byteAt (s.i.toNat + k.val)) ∧
      (∀ k : Reg, x.val < k.val → t.reg k = s.reg k) ∧
      t.pc = s.pc + 2 ∧ Frame (destRegs (.ldVxMem x)) [] s t) ∧
    (Config.memSize ≤ s.i.toNat + x.val →
      exec (.ldVxMem x) s = .fault (.addressFault (max s.i.toNat Config.memSize)))

/-- The source's round trip: registers dumped to memory at `I` and loaded back from the same address, the bytes between
untouched, are the registers dumped; for states between which anything may have run, the spec's `[derived: …]` of R199. -/
def Obligations.DumpLoadRoundTrip : Prop :=
  ∀ x s t u, exec (.ldMemVx x) s = .next t → u.i = s.i →
    (∀ k, k ≤ x.val → u.byteAt (s.i.toNat + k) = t.byteAt (s.i.toNat + k)) →
    ∃ w, exec (.ldVxMem x) u = .next w ∧ ∀ k : Reg, k.val ≤ x.val → w.reg k = s.reg k

/-- A store is seen by the next fetch with no intervening action: two registers stored where `PC` will be are the word
fetched there. That nothing holds a stale copy is the spec's `[derived: …]` of R72. -/
def Obligations.StoreThenFetch : Prop :=
  ∀ x s t u, exec (.ldMemVx x) s = .next t → 1 ≤ x.val → s.i.toNat % 2 = 0 →
    u.pc = s.i → u.mem = t.mem → fetch Config.addrPolicy u = .ok (wordOfBytes (s.reg 0) (s.reg 1))

/-- The two address policies of R64, beside each other. Under `mask` no `AddressFault` exists (R203): every byte of an
access is reduced modulo `MEM_SIZE` on its own, in a load, a store and the fetch at an even `PC` alike (a fetch at an odd
`PC` raises `MisalignedPc` under either policy, R102, and is not what this states); an access that `fault` lets through
reaches the same bytes under both. Taking `fault` as the default is the spec's decision D5 (assumption 2). -/
def Obligations.AddressPolicies : Prop :=
  ∀ s,
    (∀ n, ∃ bytes, s.readFromI .mask n = .ok bytes ∧ bytes.length = n ∧
      ∀ j, j < n → bytes[j]? = some (s.byteAt ((s.i.toNat + j) % Config.memSize))) ∧
    (∀ bytes : List Byte, bytes.length ≤ Config.memSize → ∃ t, s.storeAtI .mask bytes = .ok t ∧
      (∀ j b, bytes[j]? = some b → t.byteAt ((s.i.toNat + j) % Config.memSize) = b) ∧
      ∀ a, (∀ j, j < bytes.length → a ≠ (s.i.toNat + j) % Config.memSize) → t.byteAt a = s.byteAt a) ∧
    (s.pc.toNat % 2 = 0 → fetch .mask s =
      .ok (wordOfBytes (s.byteAt (s.pc.toNat % Config.memSize)) (s.byteAt ((s.pc.toNat + 1) % Config.memSize)))) ∧
    (∀ n bytes, s.readFromI .fault n = .ok bytes → s.readFromI .mask n = .ok bytes) ∧
    (∀ bytes t, s.storeAtI .fault bytes = .ok t → s.storeAtI .mask bytes = .ok t) ∧
    ∀ op, fetch .fault s = .ok op → fetch .mask s = .ok op

/-- Canonical memories that read the same at every address are the same memory. The canonical form is the model's own
(assumption 22). -/
def Obligations.CanonicalMemoryIsUnique : Prop :=
  ∀ m m', Memory.wf m = true → Memory.wf m' = true → (∀ a, Memory.read m a = Memory.read m' a) → m = m'

/-! ### The tick and its faults -/

/-- Fetch is big-endian (R53): the byte at `PC` is the high-order byte of the word, the byte at `PC + 1` the low-order
one; the source's bytes `0x60, 0x05` are the word `0x6005`. -/
def Obligations.FetchIsBigEndian : Prop :=
  (∀ s op, fetch Config.addrPolicy s = .ok op →
    op.toNat = (s.byteAt s.pc.toNat).toNat * 256 + (s.byteAt (s.pc.toNat + 1)).toNat ∧
    highByte op = s.byteAt s.pc.toNat ∧ lowByte op = s.byteAt (s.pc.toNat + 1)) ∧
  wordOfBytes 0x60 0x05 = 0x6005#16

/-- A step runs the decoded instruction: when the two bytes at `PC`, even and inside memory, decode to `i`, which is then
well formed, the step is `exec i` followed by one countdown of each timer (R101, R105). That the countdown follows a
waiting FX0A too is the spec's decision D27 (assumption 19). -/
def Obligations.StepRunsDecoded : Prop :=
  ∀ s i, s.pc.toNat % 2 = 0 → s.pc.toNat < Config.memSize → decode (wordAtPc s) = some i →
    i.WellFormed = true ∧
    (∀ t, exec i s = .next t → step s = .next { t with dt := countDown t.dt, st := countDown t.st }) ∧
    ∀ f, exec i s = .fault f → step s = .fault f

/-- An instruction faults exactly where the rules list a fault for it, with the fault they list, completes everywhere
else, and is never refused. The listed faults of CALL and RET are the spec's decision D7 (assumption 9), those of the
accesses through `I` its decision D5 (assumption 2). -/
def Obligations.FaultsExactlyWhereListed : Prop :=
  ∀ i s, (∀ f, exec i s = .fault f ↔ execFault i s = some f) ∧
    (execFault i s = none → ∃ t, exec i s = .next t) ∧ ∀ r, exec i s ≠ .refused r

/-- A tick reports the first fault in the order: odd `PC`, `PC` outside memory, unrecognized word, the instruction's own;
with none of these it completes; it is never refused. That the odd `PC` comes first is this spec's order, and both fetch
faults its decisions D5, D6 (assumptions 2, 11). -/
def Obligations.FaultPriority : Prop :=
  ∀ s, (∀ f, step s = .fault f ↔ stepFault s = some f) ∧
    (stepFault s = none → ∃ t, step s = .next t) ∧ ∀ r, step s ≠ .refused r

/-- A tick raises `UnrecognizedInstruction` exactly when the word it has fetched matches no row of the opcode map, with that
raw word, and it then leaves the machine as it was: no handler runs (R104, R202). The source's word `0xFFFF` is one. -/
def Obligations.UnrecognizedWordFaults : Prop :=
  (∀ s op, step s = .fault (.unrecognizedInstruction op) ↔
    fetch Config.addrPolicy s = .ok op ∧ ∀ r ∈ opcodeMap, op &&& r.maskBits ≠ r.matchBits) ∧
  (∀ s op, step s = .fault (.unrecognizedInstruction op) → (tick s).state = s) ∧
  ∀ s, fetch Config.addrPolicy s = .ok 0xFFFF#16 → step s = .fault (.unrecognizedInstruction 0xFFFF#16)

/-- A faulting tick changes nothing, and the same tick again reports the same fault. That this holds of every fault is
the spec's decision D12 (assumption 8). -/
def Obligations.FaultingTickChangesNothing : Prop :=
  ∀ s f, step s = .fault f → (tick s).state = s ∧ (tick s).fault = some f ∧ tick (tick s).state = tick s

/-! ### Rules over all instructions -/

/-- The general registers an instruction writes are those `destRegs` lists; in particular `VF` is written by the six flag
writers and by an instruction that names register 15 as its destination, and the six write 0 or 1. That FX1E leaves `VF`
is the spec's decision D18 (assumption 16); that with `X = 15` the flag is what an ALU flag writer leaves is its decision
D14 (assumption 12). -/
def Obligations.RegisterWriters : Prop :=
  ∀ i s t, exec i s = .next t →
    (∀ r, r ∉ destRegs i → t.reg r = s.reg r) ∧
    ((∃ x y, i = .addReg x y ∨ i = .sub x y ∨ i = .subn x y ∨ i = .shr x y ∨ i = .shl x y) ∨
      (∃ x y n, i = .drw x y n) → t.reg vf = 0 ∨ t.reg vf = 1)

/-- The only writers of memory are FX33 and FX55, and they write only the bytes from `I` upward they store. -/
def Obligations.OnlyStoresWriteMemory : Prop :=
  ∀ s t a, step s = .next t → t.byteAt a ≠ s.byteAt a →
    ∃ i, Executes s i ∧ ((∃ x, i = .ldB x) ∨ ∃ x, i = .ldMemVx x) ∧
      s.i.toNat ≤ a ∧ a < s.i.toNat + storedBytes i

/-- The state that plays a control role, and who writes it (R32): the key latch no instruction, the stack only CALL and
RET, the framebuffer and `DIRTY` only DXYN and 00E0, which set it, `I` only ANNN, FX1E and FX29. That 00E0 sets `DIRTY` is the spec's decision D9 (assumption 17), that FX55
and FX65 leave `I` its decision D19 (assumption 15). -/
def Obligations.ControlStateWriters : Prop :=
  ∀ i s t, exec i s = .next t →
    t.key = s.key ∧
    (t.stk ≠ s.stk → ∃ nnn, i = .call nnn) ∧
    (t.sp ≠ s.sp → (∃ nnn, i = .call nnn) ∨ i = .ret) ∧
    (t.dt ≠ s.dt → ∃ x, i = .ldDtVx x) ∧
    (t.st ≠ s.st → ∃ x, i = .ldStVx x) ∧
    (t.fb ≠ s.fb → (∃ x y n, i = .drw x y n) ∨ i = .cls) ∧
    (s.dirty = true → t.dirty = true) ∧
    ((∃ x y n, i = .drw x y n) ∨ i = .cls → t.dirty = true) ∧
    (t.dirty ≠ s.dirty → (∃ x y n, i = .drw x y n) ∨ i = .cls) ∧
    (t.i ≠ s.i → (∃ nnn, i = .ldI nnn) ∨ (∃ x, i = .addI x) ∨ ∃ x, i = .ldF x)

/-- `DIRTY` and `ST` cannot affect the program: states that differ in these alone go on to states that differ in these
alone, or raise the same fault. -/
def Obligations.DirtyAndSoundAreInvisible : Prop :=
  ∀ s u, SameButSilent s u →
    (∀ t, step s = .next t → ∃ w, step u = .next w ∧ SameButSilent t w) ∧
    ∀ f, step s = .fault f → step u = .fault f

/-- `PC` becomes odd only by 1NNN, 2NNN or BNNN, never by a return, in a state that satisfies the invariant.
It holds because nothing runs from an odd `PC`: the fetch there faults, the spec's decision D6 (assumption 11). -/
def Obligations.OddPcOnlyByJumps : Prop :=
  ∀ s t, CoreInv s → step s = .next t → t.pc.toNat % 2 = 1 →
    ∃ nnn, Executes s (.jp nnn) ∨ Executes s (.call nnn) ∨ Executes s (.jpV0 nnn)

/-- The halt idiom: once `PC` stands at a `JP` to itself, every later tick leaves everything but the timers unchanged,
and they count down to 0. Calling it the end of a run is the spec's decision D23. -/
def Obligations.HaltIdiomHolds : Prop :=
  ∀ n s, Halted s → ∃ t, runTicks n s = .next t ∧ Halted t ∧ t.pc = s.pc ∧ Frame [] [.dt, .st] s t ∧
    t.dt.toNat = s.dt.toNat - n ∧ t.st.toNat = s.st.toNat - n

/-! ### Construction, the host, the invariant -/

/-- `ProgramTooLarge` is raised by construction exactly when the program exceeds the space from `PROG_BASE` up, with its
length; it is no tick's fault (R201). -/
def Obligations.TooLargeProgramRefused : Prop :=
  (∀ (program : List Byte) n, construct program = .fault (.programTooLarge n) ↔
    n = program.length ∧ Config.memSize - Config.progBase < program.length) ∧
  (∀ (program : List Byte), Config.memSize - Config.progBase < program.length → ∀ s, construct program ≠ .next s) ∧
  ∀ s n, step s ≠ .fault (.programTooLarge n)

/-- Construction: a program that fits gives the reset state, font, program and zeros in memory, everything else 0 and `PC`
at `PROG_BASE`; the empty program gives `State.reset`. The reset values of `FB`, `DIRTY` and `KEY` are the spec's decision
D8 (assumption 21), the default parameters its decisions D1 to D4 and D24 (assumptions 1, 3), the value of the draw
counter the model's own (assumption 6). -/
def Obligations.ConstructGivesReset : Prop :=
  construct [] = .next State.reset ∧
  ∀ program : List Byte, program.length ≤ Config.memSize - Config.progBase → ∃ s, construct program = .next s ∧
    (∀ r, s.reg r = 0) ∧ s.i = 0 ∧ s.pc.toNat = Config.progBase ∧ (∀ k : Fin 16, s.stk[k] = 0) ∧ s.sp.val = 0 ∧
    s.dt = 0 ∧ s.st = 0 ∧ s.tone = false ∧
    (∀ k b, Config.fontData[k]? = some b → s.byteAt (Config.fontBase + k) = b) ∧
    (∀ k b, program[k]? = some b → s.byteAt (Config.progBase + k) = b) ∧
    (∀ a, ¬ (Config.fontBase ≤ a ∧ a < Config.fontBase + 80) →
      ¬ (Config.progBase ≤ a ∧ a < Config.progBase + program.length) → s.byteAt a = 0) ∧
    (∀ p, s.fb.pixel p = false) ∧ s.dirty = false ∧ (∀ k : Fin 16, s.key[k] = false) ∧ s.draws = 0

/-- `SetKey(i, p)` writes one latch bit and nothing else, the last of several calls for a key counts, and an index outside
the latch is refused (R222). -/
def Obligations.SetKeyWritesOneLatch : Prop :=
  ∀ s i p,
    (i < 16 → ∃ t, setKey s i p = .next t ∧
      (∀ k : Fin 16, t.key[k] = if k.val = i then p else s.key[k]) ∧ t = { s with key := t.key }) ∧
    (∀ q u, setKey s i q = .next u → setKey u i p = setKey s i p) ∧
    (16 ≤ i → setKey s i p = .refused (.keyIndexOutOfRange i))

/-- `TakeDirtyFlag()` answers the flag and clears it, and changes nothing else; it is the only thing that clears the flag;
twice with no tick between, the second answers 0 (R219). -/
def Obligations.TakeDirtyFlagClears : Prop :=
  ∀ s, (takeDirtyFlag s).1 = s.dirty ∧ (takeDirtyFlag s).2 = { s with dirty := false } ∧
    (takeDirtyFlag (takeDirtyFlag s).2).1 = false ∧
    ∀ op, s.dirty = true → (applyOp s op).dirty = false → op = .takeDirtyFlag

/-- `Snapshot()` changes nothing and gives every pixel once, pixel `(x, y)` at `y * FB_WIDTH + x`, which layout is the
spec's decision D22 (assumption 24). -/
def Obligations.SnapshotIsRowMajor : Prop :=
  ∀ s, (snapshot s).length = Config.fbWidth * Config.fbHeight ∧ applyOp s .snapshot = s ∧
    ∀ p : Pixel, (snapshot s)[p.2.val * Config.fbWidth + p.1.val]? = some (s.fb.pixel p)

/-- The invariant holds in every state a construction gives. The canonical form of memory is the model's own
(assumption 22). -/
def Obligations.ConstructEstablishesInv : Prop :=
  ∀ program s, construct program = .next s → CoreInv s

/-- Every tick keeps the invariant, from every state that satisfies it. That `PC` can reach `0x10FE`, and that nothing runs
from there, rest on the spec's decisions D26, D5 (assumptions 18, 2); that a pushed return address is even, on its
decision D6 (assumption 11); the canonical form of memory is the model's own (assumption 22). -/
def Obligations.StepKeepsInv : Prop :=
  ∀ s t, CoreInv s → step s = .next t → CoreInv t

/-- Every state a session of the host can reach, by any mix of ticks, key pushes, flag reads and snapshots after a
construction, satisfies the invariant. The invariant rests on the spec's decisions D5, D6, D26 (assumptions 2, 11, 18) and
on the model's form of memory (assumption 22). -/
def Obligations.SessionKeepsInv : Prop :=
  ∀ s, Reachable s → CoreInv s

/-! ### Encoding -/

/-- Decoding the word of a well-formed instruction gives it back, with every operand. -/
def Obligations.DecodeEncode : Prop :=
  ∀ i : Instr, i.WellFormed = true → decode (encode i) = some i

/-- A word has one meaning and the encoder gives it back: what decodes is well formed and encodes to the word. -/
def Obligations.EncodeDecode : Prop :=
  ∀ op i, decode op = some i → i.WellFormed = true ∧ encode i = op

/-- Decode is exact (R86 to R88): a word decodes to an instruction of the row of the opcode map it matches, and is
unrecognized when it matches none. The numeric codes and the exact masks are the spec's decisions D10, D29
(assumption 10). -/
def Obligations.DecodeFollowsOpcodeMap : Prop :=
  ∀ op, (∀ i, decode op = some i → rowOf i ∈ opcodeMap ∧ op &&& (rowOf i).maskBits = (rowOf i).matchBits) ∧
    (decode op = none ↔ ∀ r ∈ opcodeMap, op &&& r.maskBits ≠ r.matchBits)

/-- Words of the spec's own examples and vectors, written out, and what they stand for. -/
def Obligations.SampleWordsDecode : Prop :=
  decode 0b0110_1010_0000_0010#16 = some (.ldImm 10 0x02) ∧
  decode 0b1111_1010_0001_1110#16 = some (.addI 10) ∧
  decode 0b1010_0011_0000_0000#16 = some (.ldI 0x300) ∧
  decode 0b1101_1111_0010_0001#16 = some (.drw 15 2 1) ∧
  decode 0b1000_0001_0010_0111#16 = some (.subn 1 2) ∧
  decode 0b1110_0100_1010_0001#16 = some (.sknp 4) ∧
  decode 0b0000_0001_1110_0000#16 = none ∧
  decode 0b1111_1111_1111_1111#16 = none
end

