-- ==== Sys2Proof/Laws/Decode.lean ====
section
/-!
SUPPORT. The fields of a packed word, and what a row's match and mask say of the fields.
-/

namespace Sys2Proof

/-! ### A word is its four nibbles -/

/-- A word put together from its nibbles, top first. -/
def nibbles (f x y n : BitVec 4) : Word :=
  f.setWidth 16 <<< 12 ||| x.setWidth 16 <<< 8 ||| y.setWidth 16 <<< 4 ||| n.setWidth 16

theorem fieldF_nibbles (f x y n : BitVec 4) : fieldF (nibbles f x y n) = f := by
  apply BitVec.eq_of_getLsbD_eq
  intro i hi
  interval_cases i <;> simp [fieldF, nibbles]

theorem fieldX_nibbles (f x y n : BitVec 4) : fieldX (nibbles f x y n) = x := by
  apply BitVec.eq_of_getLsbD_eq
  intro i hi
  interval_cases i <;> simp [fieldX, nibbles]

theorem fieldY_nibbles (f x y n : BitVec 4) : fieldY (nibbles f x y n) = y := by
  apply BitVec.eq_of_getLsbD_eq
  intro i hi
  interval_cases i <;> simp [fieldY, nibbles]

theorem fieldN_nibbles (f x y n : BitVec 4) : fieldN (nibbles f x y n) = n := by
  apply BitVec.eq_of_getLsbD_eq
  intro i hi
  interval_cases i <;> simp [fieldN, nibbles]

/-- R81: the four nibbles are the whole word. -/
theorem nibbles_fields (op : Word) : nibbles (fieldF op) (fieldX op) (fieldY op) (fieldN op) = op := by
  apply BitVec.eq_of_getLsbD_eq
  intro i hi
  interval_cases i <;> simp [fieldF, fieldX, fieldY, fieldN, nibbles]

/-! ### Packed formats (R82) -/

theorem fieldF_packNNN (f : BitVec 4) (nnn : Lit12) : fieldF (packNNN f nnn) = f := by
  apply BitVec.eq_of_getLsbD_eq
  intro i hi
  interval_cases i <;> simp [fieldF, packNNN]

theorem fieldNNN_packNNN (f : BitVec 4) (nnn : Lit12) : fieldNNN (packNNN f nnn) = nnn := by
  apply BitVec.eq_of_getLsbD_eq
  intro i hi
  interval_cases i <;> simp [fieldNNN, packNNN]

theorem fieldF_packXNN (f : BitVec 4) (x : Reg) (nn : Byte) : fieldF (packXNN f x nn) = f := by
  apply BitVec.eq_of_getLsbD_eq
  intro i hi
  interval_cases i <;> simp [fieldF, packXNN]

theorem regX_packXNN (f : BitVec 4) (x : Reg) (nn : Byte) : regX (packXNN f x nn) = x := by
  have h : fieldX (packXNN f x nn) = BitVec.ofFin (w := 4) x := by
    apply BitVec.eq_of_getLsbD_eq
    intro i hi
    interval_cases i <;> simp [fieldX, packXNN]
  rw [regX, h]

theorem fieldNN_packXNN (f : BitVec 4) (x : Reg) (nn : Byte) : fieldNN (packXNN f x nn) = nn := by
  apply BitVec.eq_of_getLsbD_eq
  intro i hi
  interval_cases i <;> simp [fieldNN, packXNN]

theorem packXYN_eq_nibbles (f : BitVec 4) (x y : Reg) (n : BitVec 4) :
    packXYN f x y n = nibbles f (BitVec.ofFin (w := 4) x) (BitVec.ofFin (w := 4) y) n := rfl

theorem fieldF_packXYN (f : BitVec 4) (x y : Reg) (n : BitVec 4) : fieldF (packXYN f x y n) = f :=
  fieldF_nibbles _ _ _ _

theorem regX_packXYN (f : BitVec 4) (x y : Reg) (n : BitVec 4) : regX (packXYN f x y n) = x := by
  rw [regX, packXYN_eq_nibbles, fieldX_nibbles]

theorem regY_packXYN (f : BitVec 4) (x y : Reg) (n : BitVec 4) : regY (packXYN f x y n) = y := by
  rw [regY, packXYN_eq_nibbles, fieldY_nibbles]

theorem fieldN_packXYN (f : BitVec 4) (x y : Reg) (n : BitVec 4) : fieldN (packXYN f x y n) = n :=
  fieldN_nibbles _ _ _ _

/-- A word is its family and its 12-bit literal. -/
theorem packNNN_fields (op : Word) : packNNN (fieldF op) (fieldNNN op) = op := by
  apply BitVec.eq_of_getLsbD_eq
  intro i hi
  interval_cases i <;> simp [fieldF, fieldNNN, packNNN]

/-- A word is its family, its register and its low byte. -/
theorem packXNN_fields (op : Word) : packXNN (fieldF op) (regX op) (fieldNN op) = op := by
  have h : BitVec.ofFin (w := 4) (regX op) = fieldX op := rfl
  rw [packXNN, h]
  apply BitVec.eq_of_getLsbD_eq
  intro i hi
  interval_cases i <;> simp [fieldF, fieldX, fieldNN]

/-- A word is its family, its two registers and its low nibble. -/
theorem packXYN_fields (op : Word) : packXYN (fieldF op) (regX op) (regY op) (fieldN op) = op :=
  nibbles_fields op

/-! ### Masks (R87) -/

theorem and_fifteen (v : BitVec 4) : v &&& 15#4 = v := BitVec.and_allOnes (x := v)

theorem and_255 (v : Byte) : v &&& 255#8 = v := BitVec.and_allOnes (x := v)

/-- Mask `0xF000`: the family is that of the match. -/
theorem maskF_iff (op m : Word) (hm : m &&& 0xF000#16 = m) :
    op &&& 0xF000#16 = m ↔ fieldF op = fieldF m := by
  constructor
  · intro h
    rw [← h]
    simp [fieldF, BitVec.extractLsb'_and, and_fifteen]
  · intro h
    rw [← hm]
    apply BitVec.eq_of_getLsbD_eq
    intro i hi
    have hb : ∀ j, (fieldF op).getLsbD j = (fieldF m).getLsbD j := fun j => by rw [h]
    have h0 := hb 0; have h1 := hb 1; have h2 := hb 2; have h3 := hb 3
    simp [fieldF] at h0 h1 h2 h3
    interval_cases i <;> simp [h0, h1, h2, h3]

/-- Mask `0xF00F`: family and low nibble. -/
theorem maskFN_iff (op m : Word) (hm : m &&& 0xF00F#16 = m) :
    op &&& 0xF00F#16 = m ↔ fieldF op = fieldF m ∧ fieldN op = fieldN m := by
  constructor
  · intro h
    rw [← h]
    simp [fieldF, fieldN, BitVec.extractLsb'_and, and_fifteen]
  · rintro ⟨h, h'⟩
    rw [← hm]
    apply BitVec.eq_of_getLsbD_eq
    intro i hi
    have hb : ∀ j, (fieldF op).getLsbD j = (fieldF m).getLsbD j := fun j => by rw [h]
    have h0 := hb 0; have h1 := hb 1; have h2 := hb 2; have h3 := hb 3
    simp [fieldF] at h0 h1 h2 h3
    have hc : ∀ j, (fieldN op).getLsbD j = (fieldN m).getLsbD j := fun j => by rw [h']
    have g0 := hc 0; have g1 := hc 1; have g2 := hc 2; have g3 := hc 3
    simp [fieldN] at g0 g1 g2 g3
    interval_cases i <;> simp [h0, h1, h2, h3, g0, g1, g2, g3]

/-- Mask `0xF0FF`: family and low byte. -/
theorem maskFNN_iff (op m : Word) (hm : m &&& 0xF0FF#16 = m) :
    op &&& 0xF0FF#16 = m ↔ fieldF op = fieldF m ∧ fieldNN op = fieldNN m := by
  constructor
  · intro h
    rw [← h]
    simp [fieldF, fieldNN, BitVec.extractLsb'_and, and_fifteen, and_255]
  · rintro ⟨h, h'⟩
    rw [← hm]
    apply BitVec.eq_of_getLsbD_eq
    intro i hi
    have hb : ∀ j, (fieldF op).getLsbD j = (fieldF m).getLsbD j := fun j => by rw [h]
    have h0 := hb 0; have h1 := hb 1; have h2 := hb 2; have h3 := hb 3
    simp [fieldF] at h0 h1 h2 h3
    have hc : ∀ j, (fieldNN op).getLsbD j = (fieldNN m).getLsbD j := fun j => by rw [h']
    have g0 := hc 0; have g1 := hc 1; have g2 := hc 2; have g3 := hc 3
    have g4 := hc 4; have g5 := hc 5; have g6 := hc 6; have g7 := hc 7
    simp [fieldNN] at g0 g1 g2 g3 g4 g5 g6 g7
    interval_cases i <;> simp [h0, h1, h2, h3, g0, g1, g2, g3, g4, g5, g6, g7]

/-- Mask `0xFFFF`: the word itself. -/
theorem maskAll_iff (op m : Word) : op &&& 0xFFFF#16 = m ↔ op = m := by
  have h : op &&& 0xFFFF#16 = op := by
    apply BitVec.eq_of_getLsbD_eq
    intro i hi
    interval_cases i <;> simp
  rw [h]

/-- The two bytes of a word, put together again, are the word (R53). -/
theorem wordOfBytes_high_low (op : Word) : wordOfBytes (highByte op) (lowByte op) = op := by
  apply BitVec.eq_of_getLsbD_eq
  intro i hi
  interval_cases i <;> simp [wordOfBytes, highByte, lowByte]

end Sys2Proof
end

