-- ==== Sys2Proof/Laws/Memory.lean ====
section
/-!
SUPPORT. Main memory: a read after a write, that every operation keeps the canonical form, and what the address
primitive and the access sequences answer.
-/

namespace Sys2Proof.Machine

/-! ### One byte -/

theorem Memory.read_erase (m : Mem) (a c : Nat) :
    Memory.read (Memory.erase m a) c = if c = a then Memory.initial a else Memory.read m c := by
  induction m with
  | nil => by_cases h : c = a <;> simp [Memory.erase, Memory.read, h]
  | cons d rest ih =>
    obtain ⟨k, b⟩ := d
    by_cases hk : k = a
    · subst hk
      simp only [Memory.erase, List.filter_cons, bne_self_eq_false, Bool.false_eq_true, ↓reduceIte] at *
      rw [ih]
      by_cases hc : c = k
      · simp [hc]
      · simp [hc, Memory.read, Ne.symm hc]
    · have hb : (k != a) = true := by simpa using hk
      simp only [Memory.erase, List.filter_cons, hb, ↓reduceIte, Memory.read] at *
      rw [ih]
      by_cases hc : k = c
      · subst hc; simp [hk]
      · simp [hc]

theorem Memory.read_insertCell (d : Host.Cell) (m : Mem) (c : Nat) (h : ∀ e ∈ m, e.1 ≠ d.1) :
    Memory.read (Memory.insertCell d m) c = if c = d.1 then d.2 else Memory.read m c := by
  induction m with
  | nil => simp [Memory.insertCell, Memory.read, eq_comm]
  | cons e rest ih =>
    have he : e.1 ≠ d.1 := h e (by simp)
    have hr := ih (fun x hx => h x (by simp [hx]))
    by_cases hlt : d.1 < e.1
    · simp [Memory.insertCell, hlt, Memory.read, eq_comm]
    · simp only [Memory.insertCell, hlt, ↓reduceIte, Memory.read, hr]
      by_cases hc : e.1 = c
      · subst hc; simp [he]
      · simp [hc]

theorem Memory.erase_ne (m : Mem) (a : Nat) : ∀ e ∈ Memory.erase m a, e.1 ≠ a := by
  intro e he
  simpa using (List.mem_filter.mp he).2

/-- R59: a write changes exactly the addressed byte. -/
theorem Memory.read_write (m : Mem) (a : Nat) (b : Byte) (c : Nat) :
    Memory.read (Memory.write m a b) c = if c = a then b else Memory.read m c := by
  unfold Memory.write
  split
  · rename_i h; rw [Memory.read_erase]; by_cases hc : c = a <;> simp [hc, h]
  · rw [Memory.read_insertCell _ _ _ (Memory.erase_ne m a), Memory.read_erase]
    by_cases hc : c = a <;> simp [hc]

@[simp] theorem Memory.read_nil (a : Nat) : Memory.read [] a = Memory.initial a := rfl

/-! ### The canonical form -/

theorem Memory.rising_cons (c : Host.Cell) (m : Mem) :
    Memory.rising (c :: m) = true ↔ (∀ d ∈ m, c.1 < d.1) ∧ Memory.rising m = true := by
  simp [Memory.rising, List.all_eq_true]

theorem Memory.erase_rising (m : Mem) (a : Nat) (h : Memory.rising m = true) :
    Memory.rising (Memory.erase m a) = true := by
  induction m with
  | nil => rfl
  | cons c rest ih =>
    obtain ⟨h1, h2⟩ := (Memory.rising_cons c rest).mp h
    simp only [Memory.erase, List.filter_cons]
    split
    · exact (Memory.rising_cons _ _).mpr ⟨fun d hd => h1 d (List.mem_filter.mp hd).1, ih h2⟩
    · exact ih h2

theorem Memory.mem_insertCell (d e : Host.Cell) (m : Mem) :
    e ∈ Memory.insertCell d m ↔ e = d ∨ e ∈ m := by
  induction m with
  | nil => simp [Memory.insertCell]
  | cons c rest ih =>
    simp only [Memory.insertCell]
    split
    · simp
    · simp only [List.mem_cons, ih]; tauto

theorem Memory.insertCell_rising (d : Host.Cell) (m : Mem) (h : Memory.rising m = true) (hn : ∀ e ∈ m, e.1 ≠ d.1) :
    Memory.rising (Memory.insertCell d m) = true := by
  induction m with
  | nil => rfl
  | cons c rest ih =>
    obtain ⟨h1, h2⟩ := (Memory.rising_cons c rest).mp h
    simp only [Memory.insertCell]
    split
    · rename_i hlt
      refine (Memory.rising_cons _ _).mpr ⟨fun e he => ?_, h⟩
      rcases List.mem_cons.mp he with rfl | he
      · exact hlt
      · exact lt_trans hlt (h1 e he)
    · rename_i hlt
      refine (Memory.rising_cons _ _).mpr ⟨fun e he => ?_, ih h2 (fun e he => hn e (by simp [he]))⟩
      rcases (Memory.mem_insertCell _ _ _).mp he with rfl | he
      · have := hn c (by simp); omega
      · exact h1 e he

theorem Memory.wf_iff (m : Mem) :
    Memory.wf m = true ↔ Memory.rising m = true ∧ ∀ c ∈ m, Memory.cellOk c = true := by
  simp [Memory.wf, List.all_eq_true]

/-- A write inside memory keeps the canonical form. -/
theorem Memory.wf_write (m : Mem) (a : Nat) (b : Byte) (h : Memory.wf m = true) (ha : a < Config.memSize) :
    Memory.wf (Memory.write m a b) = true := by
  obtain ⟨h1, h2⟩ := (Memory.wf_iff m).mp h
  have h3 : ∀ c ∈ Memory.erase m a, Memory.cellOk c = true := fun c hc => h2 c (List.mem_filter.mp hc).1
  unfold Memory.write
  split
  · exact (Memory.wf_iff _).mpr ⟨Memory.erase_rising m a h1, h3⟩
  · rename_i hb
    refine (Memory.wf_iff _).mpr
      ⟨Memory.insertCell_rising _ _ (Memory.erase_rising m a h1) (Memory.erase_ne m a), fun c hc => ?_⟩
    rcases (Memory.mem_insertCell _ _ _).mp hc with rfl | hc
    · simp [Memory.cellOk, ha, hb]
    · exact h3 c hc

theorem Memory.wf_writeAll (m : Mem) (ks : List Nat) (bs : List Byte) (h : Memory.wf m = true)
    (hk : ∀ k ∈ ks, k < Config.memSize) : Memory.wf (Memory.writeAll m ks bs) = true := by
  induction ks generalizing m bs with
  | nil => cases bs <;> exact h
  | cons k ks ih =>
    cases bs with
    | nil => exact h
    | cons b bs =>
      exact ih _ _ (Memory.wf_write m k b h (hk k (by simp))) (fun j hj => hk j (by simp [hj]))

/-! ### Access sequences -/

/-- Every offset an access sequence reaches is inside memory, under either policy. -/
theorem Memory.resolveSeq_lt (policy : AddrPolicy) (a n : Nat) (ks : List Nat)
    (h : Memory.resolveSeq policy a n = .ok ks) : ∀ k ∈ ks, k < Config.memSize := by
  induction n generalizing a ks with
  | zero => simp only [Memory.resolveSeq] at h; cases h; simp
  | succ n ih =>
    simp only [Memory.resolveSeq] at h
    split at h
    · cases h
    · rename_i k hk
      split at h
      · cases h
      · rename_i js hj
        cases h
        intro j hj'
        rcases List.mem_cons.mp hj' with rfl | hj'
        · cases policy with
          | fault =>
            simp only [Memory.resolve] at hk
            split at hk
            · cases hk; assumption
            · cases hk
          | mask =>
            simp only [Memory.resolve] at hk
            cases hk
            exact Nat.mod_lt _ (by decide)
        · exact ih _ _ hj j hj'

/-- A store through either policy keeps the canonical form. -/
theorem Memory.wf_writeSeq (policy : AddrPolicy) (m m' : Mem) (a : Nat) (bytes : List Byte)
    (h : Memory.wf m = true) (hw : Memory.writeSeq policy m a bytes = .ok m') : Memory.wf m' = true := by
  simp only [Memory.writeSeq] at hw
  split at hw
  · cases hw
  · rename_i ks hk
    cases hw
    exact Memory.wf_writeAll m ks bytes h (Memory.resolveSeq_lt policy a _ ks hk)

/-- Under the policy `fault`, everything a sequence can answer: the consecutive offsets when all lie in memory, and else
the lowest address that does not (R64, R203). -/
theorem Memory.resolveSeq_fault (a n : Nat) :
    Memory.resolveSeq .fault a n =
      if n = 0 ∨ a + n ≤ Config.memSize then .ok (List.range' a n)
      else .error (.addressFault (max a Config.memSize)) := by
  induction n generalizing a with
  | zero => rfl
  | succ n ih =>
    simp only [Memory.resolveSeq, Memory.resolve, ih]
    by_cases h1 : a < Config.memSize
    · by_cases h2 : n = 0 ∨ a + 1 + n ≤ Config.memSize
      · have h3 : n + 1 = 0 ∨ a + (n + 1) ≤ Config.memSize := by omega
        rw [if_pos h1, if_pos h2, if_pos h3]
        rfl
      · have h3 : ¬ (n + 1 = 0 ∨ a + (n + 1) ≤ Config.memSize) := by omega
        have h4 : max (a + 1) Config.memSize = max a Config.memSize := by omega
        rw [if_pos h1, if_neg h2, if_neg h3, h4]
    · have h3 : ¬ (n + 1 = 0 ∨ a + (n + 1) ≤ Config.memSize) := by omega
      have h4 : max a Config.memSize = a := by omega
      rw [if_neg h1, if_neg h3, h4]

/-- Writing bytes at consecutive offsets, as one read. -/
theorem Memory.read_writeAll_range (m : Mem) (a : Nat) (bytes : List Byte) (c : Nat) :
    Memory.read (Memory.writeAll m (List.range' a bytes.length) bytes) c =
      if a ≤ c then (bytes[c - a]?).getD (Memory.read m c) else Memory.read m c := by
  induction bytes generalizing m a with
  | nil => simp [Memory.writeAll]
  | cons b bs ih =>
    simp only [List.length_cons, List.range'_succ, Memory.writeAll, ih, Memory.read_write]
    by_cases h1 : a + 1 ≤ c
    · have h2 : a ≤ c := by omega
      have h3 : c - a = (c - (a + 1)) + 1 := by omega
      have h4 : c ≠ a := by omega
      simp [h1, h2, h3, h4]
    · by_cases h2 : c = a
      · subst h2; simp
      · have h3 : ¬ a ≤ c := by omega
        simp [h1, h2, h3]

end Sys2Proof.Machine
end

