-- ==== Sys2Proof/Laws/State.lean ====
section
/-!
SUPPORT. Every field of the state after every named update: one lemma per field per update, so that no later proof
unfolds a record update.
-/

namespace Sys2Proof.Machine

variable (s : State)

/-! ### `State.setReg` -/

@[simp] theorem State.setReg_i (x : Reg) (b : Byte) : (s.setReg x b).i = s.i := rfl
@[simp] theorem State.setReg_pc (x : Reg) (b : Byte) : (s.setReg x b).pc = s.pc := rfl
@[simp] theorem State.setReg_stk (x : Reg) (b : Byte) : (s.setReg x b).stk = s.stk := rfl
@[simp] theorem State.setReg_sp (x : Reg) (b : Byte) : (s.setReg x b).sp = s.sp := rfl
@[simp] theorem State.setReg_dt (x : Reg) (b : Byte) : (s.setReg x b).dt = s.dt := rfl
@[simp] theorem State.setReg_st (x : Reg) (b : Byte) : (s.setReg x b).st = s.st := rfl
@[simp] theorem State.setReg_mem (x : Reg) (b : Byte) : (s.setReg x b).mem = s.mem := rfl
@[simp] theorem State.setReg_fb (x : Reg) (b : Byte) : (s.setReg x b).fb = s.fb := rfl
@[simp] theorem State.setReg_dirty (x : Reg) (b : Byte) : (s.setReg x b).dirty = s.dirty := rfl
@[simp] theorem State.setReg_key (x : Reg) (b : Byte) : (s.setReg x b).key = s.key := rfl
@[simp] theorem State.setReg_draws (x : Reg) (b : Byte) : (s.setReg x b).draws = s.draws := rfl
@[simp] theorem State.setReg_byteAt (x : Reg) (b : Byte) (n : Nat) : (s.setReg x b).byteAt n = s.byteAt n := rfl

/-! ### `State.setFlag` -/

@[simp] theorem State.setFlag_i (c : Bool) : (s.setFlag c).i = s.i := rfl
@[simp] theorem State.setFlag_pc (c : Bool) : (s.setFlag c).pc = s.pc := rfl
@[simp] theorem State.setFlag_stk (c : Bool) : (s.setFlag c).stk = s.stk := rfl
@[simp] theorem State.setFlag_sp (c : Bool) : (s.setFlag c).sp = s.sp := rfl
@[simp] theorem State.setFlag_dt (c : Bool) : (s.setFlag c).dt = s.dt := rfl
@[simp] theorem State.setFlag_st (c : Bool) : (s.setFlag c).st = s.st := rfl
@[simp] theorem State.setFlag_mem (c : Bool) : (s.setFlag c).mem = s.mem := rfl
@[simp] theorem State.setFlag_fb (c : Bool) : (s.setFlag c).fb = s.fb := rfl
@[simp] theorem State.setFlag_dirty (c : Bool) : (s.setFlag c).dirty = s.dirty := rfl
@[simp] theorem State.setFlag_key (c : Bool) : (s.setFlag c).key = s.key := rfl
@[simp] theorem State.setFlag_draws (c : Bool) : (s.setFlag c).draws = s.draws := rfl
@[simp] theorem State.setFlag_byteAt (c : Bool) (n : Nat) : (s.setFlag c).byteAt n = s.byteAt n := rfl

/-! ### `State.setRegFlag` -/

@[simp] theorem State.setRegFlag_i (x : Reg) (b : Byte) (c : Bool) : (s.setRegFlag x b c).i = s.i := rfl
@[simp] theorem State.setRegFlag_pc (x : Reg) (b : Byte) (c : Bool) : (s.setRegFlag x b c).pc = s.pc := rfl
@[simp] theorem State.setRegFlag_stk (x : Reg) (b : Byte) (c : Bool) : (s.setRegFlag x b c).stk = s.stk := rfl
@[simp] theorem State.setRegFlag_sp (x : Reg) (b : Byte) (c : Bool) : (s.setRegFlag x b c).sp = s.sp := rfl
@[simp] theorem State.setRegFlag_dt (x : Reg) (b : Byte) (c : Bool) : (s.setRegFlag x b c).dt = s.dt := rfl
@[simp] theorem State.setRegFlag_st (x : Reg) (b : Byte) (c : Bool) : (s.setRegFlag x b c).st = s.st := rfl
@[simp] theorem State.setRegFlag_mem (x : Reg) (b : Byte) (c : Bool) : (s.setRegFlag x b c).mem = s.mem := rfl
@[simp] theorem State.setRegFlag_fb (x : Reg) (b : Byte) (c : Bool) : (s.setRegFlag x b c).fb = s.fb := rfl
@[simp] theorem State.setRegFlag_dirty (x : Reg) (b : Byte) (c : Bool) : (s.setRegFlag x b c).dirty = s.dirty := rfl
@[simp] theorem State.setRegFlag_key (x : Reg) (b : Byte) (c : Bool) : (s.setRegFlag x b c).key = s.key := rfl
@[simp] theorem State.setRegFlag_draws (x : Reg) (b : Byte) (c : Bool) : (s.setRegFlag x b c).draws = s.draws := rfl
@[simp] theorem State.setRegFlag_byteAt (x : Reg) (b : Byte) (c : Bool) (n : Nat) : (s.setRegFlag x b c).byteAt n = s.byteAt n := rfl

/-! ### `State.setI` -/

@[simp] theorem State.setI_i (w : Word) : (s.setI w).i = w := rfl
@[simp] theorem State.setI_pc (w : Word) : (s.setI w).pc = s.pc := rfl
@[simp] theorem State.setI_stk (w : Word) : (s.setI w).stk = s.stk := rfl
@[simp] theorem State.setI_sp (w : Word) : (s.setI w).sp = s.sp := rfl
@[simp] theorem State.setI_dt (w : Word) : (s.setI w).dt = s.dt := rfl
@[simp] theorem State.setI_st (w : Word) : (s.setI w).st = s.st := rfl
@[simp] theorem State.setI_mem (w : Word) : (s.setI w).mem = s.mem := rfl
@[simp] theorem State.setI_fb (w : Word) : (s.setI w).fb = s.fb := rfl
@[simp] theorem State.setI_dirty (w : Word) : (s.setI w).dirty = s.dirty := rfl
@[simp] theorem State.setI_key (w : Word) : (s.setI w).key = s.key := rfl
@[simp] theorem State.setI_draws (w : Word) : (s.setI w).draws = s.draws := rfl
@[simp] theorem State.setI_reg (w : Word) (r : Reg) : (s.setI w).reg r = s.reg r := rfl
@[simp] theorem State.setI_byteAt (w : Word) (n : Nat) : (s.setI w).byteAt n = s.byteAt n := rfl

/-! ### `State.setDt` -/

@[simp] theorem State.setDt_i (b : Byte) : (s.setDt b).i = s.i := rfl
@[simp] theorem State.setDt_pc (b : Byte) : (s.setDt b).pc = s.pc := rfl
@[simp] theorem State.setDt_stk (b : Byte) : (s.setDt b).stk = s.stk := rfl
@[simp] theorem State.setDt_sp (b : Byte) : (s.setDt b).sp = s.sp := rfl
@[simp] theorem State.setDt_dt (b : Byte) : (s.setDt b).dt = b := rfl
@[simp] theorem State.setDt_st (b : Byte) : (s.setDt b).st = s.st := rfl
@[simp] theorem State.setDt_mem (b : Byte) : (s.setDt b).mem = s.mem := rfl
@[simp] theorem State.setDt_fb (b : Byte) : (s.setDt b).fb = s.fb := rfl
@[simp] theorem State.setDt_dirty (b : Byte) : (s.setDt b).dirty = s.dirty := rfl
@[simp] theorem State.setDt_key (b : Byte) : (s.setDt b).key = s.key := rfl
@[simp] theorem State.setDt_draws (b : Byte) : (s.setDt b).draws = s.draws := rfl
@[simp] theorem State.setDt_reg (b : Byte) (r : Reg) : (s.setDt b).reg r = s.reg r := rfl
@[simp] theorem State.setDt_byteAt (b : Byte) (n : Nat) : (s.setDt b).byteAt n = s.byteAt n := rfl

/-! ### `State.setSt` -/

@[simp] theorem State.setSt_i (b : Byte) : (s.setSt b).i = s.i := rfl
@[simp] theorem State.setSt_pc (b : Byte) : (s.setSt b).pc = s.pc := rfl
@[simp] theorem State.setSt_stk (b : Byte) : (s.setSt b).stk = s.stk := rfl
@[simp] theorem State.setSt_sp (b : Byte) : (s.setSt b).sp = s.sp := rfl
@[simp] theorem State.setSt_dt (b : Byte) : (s.setSt b).dt = s.dt := rfl
@[simp] theorem State.setSt_st (b : Byte) : (s.setSt b).st = b := rfl
@[simp] theorem State.setSt_mem (b : Byte) : (s.setSt b).mem = s.mem := rfl
@[simp] theorem State.setSt_fb (b : Byte) : (s.setSt b).fb = s.fb := rfl
@[simp] theorem State.setSt_dirty (b : Byte) : (s.setSt b).dirty = s.dirty := rfl
@[simp] theorem State.setSt_key (b : Byte) : (s.setSt b).key = s.key := rfl
@[simp] theorem State.setSt_draws (b : Byte) : (s.setSt b).draws = s.draws := rfl
@[simp] theorem State.setSt_reg (b : Byte) (r : Reg) : (s.setSt b).reg r = s.reg r := rfl
@[simp] theorem State.setSt_byteAt (b : Byte) (n : Nat) : (s.setSt b).byteAt n = s.byteAt n := rfl

/-! ### `State.setMem` -/

@[simp] theorem State.setMem_i (m : Mem) : (s.setMem m).i = s.i := rfl
@[simp] theorem State.setMem_pc (m : Mem) : (s.setMem m).pc = s.pc := rfl
@[simp] theorem State.setMem_stk (m : Mem) : (s.setMem m).stk = s.stk := rfl
@[simp] theorem State.setMem_sp (m : Mem) : (s.setMem m).sp = s.sp := rfl
@[simp] theorem State.setMem_dt (m : Mem) : (s.setMem m).dt = s.dt := rfl
@[simp] theorem State.setMem_st (m : Mem) : (s.setMem m).st = s.st := rfl
@[simp] theorem State.setMem_mem (m : Mem) : (s.setMem m).mem = m := rfl
@[simp] theorem State.setMem_fb (m : Mem) : (s.setMem m).fb = s.fb := rfl
@[simp] theorem State.setMem_dirty (m : Mem) : (s.setMem m).dirty = s.dirty := rfl
@[simp] theorem State.setMem_key (m : Mem) : (s.setMem m).key = s.key := rfl
@[simp] theorem State.setMem_draws (m : Mem) : (s.setMem m).draws = s.draws := rfl
@[simp] theorem State.setMem_reg (m : Mem) (r : Reg) : (s.setMem m).reg r = s.reg r := rfl

/-! ### `State.setScreen` -/

@[simp] theorem State.setScreen_i (fb : Screen) : (s.setScreen fb).i = s.i := rfl
@[simp] theorem State.setScreen_pc (fb : Screen) : (s.setScreen fb).pc = s.pc := rfl
@[simp] theorem State.setScreen_stk (fb : Screen) : (s.setScreen fb).stk = s.stk := rfl
@[simp] theorem State.setScreen_sp (fb : Screen) : (s.setScreen fb).sp = s.sp := rfl
@[simp] theorem State.setScreen_dt (fb : Screen) : (s.setScreen fb).dt = s.dt := rfl
@[simp] theorem State.setScreen_st (fb : Screen) : (s.setScreen fb).st = s.st := rfl
@[simp] theorem State.setScreen_mem (fb : Screen) : (s.setScreen fb).mem = s.mem := rfl
@[simp] theorem State.setScreen_fb (fb : Screen) : (s.setScreen fb).fb = fb := rfl
@[simp] theorem State.setScreen_dirty (fb : Screen) : (s.setScreen fb).dirty = true := rfl
@[simp] theorem State.setScreen_key (fb : Screen) : (s.setScreen fb).key = s.key := rfl
@[simp] theorem State.setScreen_draws (fb : Screen) : (s.setScreen fb).draws = s.draws := rfl
@[simp] theorem State.setScreen_reg (fb : Screen) (r : Reg) : (s.setScreen fb).reg r = s.reg r := rfl
@[simp] theorem State.setScreen_byteAt (fb : Screen) (n : Nat) : (s.setScreen fb).byteAt n = s.byteAt n := rfl

/-! ### `State.countDraw` -/

@[simp] theorem State.countDraw_i : s.countDraw.i = s.i := rfl
@[simp] theorem State.countDraw_pc : s.countDraw.pc = s.pc := rfl
@[simp] theorem State.countDraw_stk : s.countDraw.stk = s.stk := rfl
@[simp] theorem State.countDraw_sp : s.countDraw.sp = s.sp := rfl
@[simp] theorem State.countDraw_dt : s.countDraw.dt = s.dt := rfl
@[simp] theorem State.countDraw_st : s.countDraw.st = s.st := rfl
@[simp] theorem State.countDraw_mem : s.countDraw.mem = s.mem := rfl
@[simp] theorem State.countDraw_fb : s.countDraw.fb = s.fb := rfl
@[simp] theorem State.countDraw_dirty : s.countDraw.dirty = s.dirty := rfl
@[simp] theorem State.countDraw_key : s.countDraw.key = s.key := rfl
@[simp] theorem State.countDraw_draws : s.countDraw.draws = s.draws + 1 := rfl
@[simp] theorem State.countDraw_reg (r : Reg) : s.countDraw.reg r = s.reg r := rfl
@[simp] theorem State.countDraw_byteAt (n : Nat) : s.countDraw.byteAt n = s.byteAt n := rfl

/-! ### `State.loadRegs` -/

@[simp] theorem State.loadRegs_i (x : Reg) (bytes : List Byte) : (s.loadRegs x bytes).i = s.i := rfl
@[simp] theorem State.loadRegs_pc (x : Reg) (bytes : List Byte) : (s.loadRegs x bytes).pc = s.pc := rfl
@[simp] theorem State.loadRegs_stk (x : Reg) (bytes : List Byte) : (s.loadRegs x bytes).stk = s.stk := rfl
@[simp] theorem State.loadRegs_sp (x : Reg) (bytes : List Byte) : (s.loadRegs x bytes).sp = s.sp := rfl
@[simp] theorem State.loadRegs_dt (x : Reg) (bytes : List Byte) : (s.loadRegs x bytes).dt = s.dt := rfl
@[simp] theorem State.loadRegs_st (x : Reg) (bytes : List Byte) : (s.loadRegs x bytes).st = s.st := rfl
@[simp] theorem State.loadRegs_mem (x : Reg) (bytes : List Byte) : (s.loadRegs x bytes).mem = s.mem := rfl
@[simp] theorem State.loadRegs_fb (x : Reg) (bytes : List Byte) : (s.loadRegs x bytes).fb = s.fb := rfl
@[simp] theorem State.loadRegs_dirty (x : Reg) (bytes : List Byte) : (s.loadRegs x bytes).dirty = s.dirty := rfl
@[simp] theorem State.loadRegs_key (x : Reg) (bytes : List Byte) : (s.loadRegs x bytes).key = s.key := rfl
@[simp] theorem State.loadRegs_draws (x : Reg) (bytes : List Byte) : (s.loadRegs x bytes).draws = s.draws := rfl
@[simp] theorem State.loadRegs_byteAt (x : Reg) (bytes : List Byte) (n : Nat) : (s.loadRegs x bytes).byteAt n = s.byteAt n := rfl

/-! ### `State.jump` -/

@[simp] theorem State.jump_i (t : Word) : (s.jump t).i = s.i := rfl
@[simp] theorem State.jump_pc (t : Word) : (s.jump t).pc = t := rfl
@[simp] theorem State.jump_stk (t : Word) : (s.jump t).stk = s.stk := rfl
@[simp] theorem State.jump_sp (t : Word) : (s.jump t).sp = s.sp := rfl
@[simp] theorem State.jump_dt (t : Word) : (s.jump t).dt = s.dt := rfl
@[simp] theorem State.jump_st (t : Word) : (s.jump t).st = s.st := rfl
@[simp] theorem State.jump_mem (t : Word) : (s.jump t).mem = s.mem := rfl
@[simp] theorem State.jump_fb (t : Word) : (s.jump t).fb = s.fb := rfl
@[simp] theorem State.jump_dirty (t : Word) : (s.jump t).dirty = s.dirty := rfl
@[simp] theorem State.jump_key (t : Word) : (s.jump t).key = s.key := rfl
@[simp] theorem State.jump_draws (t : Word) : (s.jump t).draws = s.draws := rfl
@[simp] theorem State.jump_reg (t : Word) (r : Reg) : (s.jump t).reg r = s.reg r := rfl
@[simp] theorem State.jump_byteAt (t : Word) (n : Nat) : (s.jump t).byteAt n = s.byteAt n := rfl

/-! ### `State.advance` -/

@[simp] theorem State.advance_i (k : Word) : (s.advance k).i = s.i := rfl
@[simp] theorem State.advance_pc (k : Word) : (s.advance k).pc = s.pc + k := rfl
@[simp] theorem State.advance_stk (k : Word) : (s.advance k).stk = s.stk := rfl
@[simp] theorem State.advance_sp (k : Word) : (s.advance k).sp = s.sp := rfl
@[simp] theorem State.advance_dt (k : Word) : (s.advance k).dt = s.dt := rfl
@[simp] theorem State.advance_st (k : Word) : (s.advance k).st = s.st := rfl
@[simp] theorem State.advance_mem (k : Word) : (s.advance k).mem = s.mem := rfl
@[simp] theorem State.advance_fb (k : Word) : (s.advance k).fb = s.fb := rfl
@[simp] theorem State.advance_dirty (k : Word) : (s.advance k).dirty = s.dirty := rfl
@[simp] theorem State.advance_key (k : Word) : (s.advance k).key = s.key := rfl
@[simp] theorem State.advance_draws (k : Word) : (s.advance k).draws = s.draws := rfl
@[simp] theorem State.advance_reg (k : Word) (r : Reg) : (s.advance k).reg r = s.reg r := rfl
@[simp] theorem State.advance_byteAt (k : Word) (n : Nat) : (s.advance k).byteAt n = s.byteAt n := rfl

/-! ### `State.nextPc` -/

@[simp] theorem State.nextPc_i : s.nextPc.i = s.i := rfl
@[simp] theorem State.nextPc_pc : s.nextPc.pc = s.pc + 2 := rfl
@[simp] theorem State.nextPc_stk : s.nextPc.stk = s.stk := rfl
@[simp] theorem State.nextPc_sp : s.nextPc.sp = s.sp := rfl
@[simp] theorem State.nextPc_dt : s.nextPc.dt = s.dt := rfl
@[simp] theorem State.nextPc_st : s.nextPc.st = s.st := rfl
@[simp] theorem State.nextPc_mem : s.nextPc.mem = s.mem := rfl
@[simp] theorem State.nextPc_fb : s.nextPc.fb = s.fb := rfl
@[simp] theorem State.nextPc_dirty : s.nextPc.dirty = s.dirty := rfl
@[simp] theorem State.nextPc_key : s.nextPc.key = s.key := rfl
@[simp] theorem State.nextPc_draws : s.nextPc.draws = s.draws := rfl
@[simp] theorem State.nextPc_reg (r : Reg) : s.nextPc.reg r = s.reg r := rfl
@[simp] theorem State.nextPc_byteAt (n : Nat) : s.nextPc.byteAt n = s.byteAt n := rfl

/-! ### `State.skipIf` -/

@[simp] theorem State.skipIf_i (c : Bool) : (s.skipIf c).i = s.i := by cases c <;> rfl
@[simp] theorem State.skipIf_pc (c : Bool) : (s.skipIf c).pc = if c then s.pc + 4 else s.pc + 2 := by cases c <;> rfl
@[simp] theorem State.skipIf_stk (c : Bool) : (s.skipIf c).stk = s.stk := by cases c <;> rfl
@[simp] theorem State.skipIf_sp (c : Bool) : (s.skipIf c).sp = s.sp := by cases c <;> rfl
@[simp] theorem State.skipIf_dt (c : Bool) : (s.skipIf c).dt = s.dt := by cases c <;> rfl
@[simp] theorem State.skipIf_st (c : Bool) : (s.skipIf c).st = s.st := by cases c <;> rfl
@[simp] theorem State.skipIf_mem (c : Bool) : (s.skipIf c).mem = s.mem := by cases c <;> rfl
@[simp] theorem State.skipIf_fb (c : Bool) : (s.skipIf c).fb = s.fb := by cases c <;> rfl
@[simp] theorem State.skipIf_dirty (c : Bool) : (s.skipIf c).dirty = s.dirty := by cases c <;> rfl
@[simp] theorem State.skipIf_key (c : Bool) : (s.skipIf c).key = s.key := by cases c <;> rfl
@[simp] theorem State.skipIf_draws (c : Bool) : (s.skipIf c).draws = s.draws := by cases c <;> rfl
@[simp] theorem State.skipIf_reg (c : Bool) (r : Reg) : (s.skipIf c).reg r = s.reg r := by cases c <;> rfl
@[simp] theorem State.skipIf_byteAt (c : Bool) (n : Nat) : (s.skipIf c).byteAt n = s.byteAt n := by cases c <;> rfl

/-! ### `State.drawSprite` -/

@[simp] theorem State.drawSprite_i (x0 y0 : Nat) (rows : List Byte) : (s.drawSprite x0 y0 rows).i = s.i := rfl
@[simp] theorem State.drawSprite_pc (x0 y0 : Nat) (rows : List Byte) : (s.drawSprite x0 y0 rows).pc = s.pc := rfl
@[simp] theorem State.drawSprite_stk (x0 y0 : Nat) (rows : List Byte) : (s.drawSprite x0 y0 rows).stk = s.stk := rfl
@[simp] theorem State.drawSprite_sp (x0 y0 : Nat) (rows : List Byte) : (s.drawSprite x0 y0 rows).sp = s.sp := rfl
@[simp] theorem State.drawSprite_dt (x0 y0 : Nat) (rows : List Byte) : (s.drawSprite x0 y0 rows).dt = s.dt := rfl
@[simp] theorem State.drawSprite_st (x0 y0 : Nat) (rows : List Byte) : (s.drawSprite x0 y0 rows).st = s.st := rfl
@[simp] theorem State.drawSprite_mem (x0 y0 : Nat) (rows : List Byte) : (s.drawSprite x0 y0 rows).mem = s.mem := rfl
@[simp] theorem State.drawSprite_fb (x0 y0 : Nat) (rows : List Byte) : (s.drawSprite x0 y0 rows).fb = (blit s.fb x0 y0 rows).fb := rfl
@[simp] theorem State.drawSprite_dirty (x0 y0 : Nat) (rows : List Byte) : (s.drawSprite x0 y0 rows).dirty = true := rfl
@[simp] theorem State.drawSprite_key (x0 y0 : Nat) (rows : List Byte) : (s.drawSprite x0 y0 rows).key = s.key := rfl
@[simp] theorem State.drawSprite_draws (x0 y0 : Nat) (rows : List Byte) : (s.drawSprite x0 y0 rows).draws = s.draws := rfl
@[simp] theorem State.drawSprite_byteAt (x0 y0 : Nat) (rows : List Byte) (n : Nat) : (s.drawSprite x0 y0 rows).byteAt n = s.byteAt n := rfl

/-! ### `State.timerPhase` -/

@[simp] theorem State.timerPhase_i : s.timerPhase.i = s.i := rfl
@[simp] theorem State.timerPhase_pc : s.timerPhase.pc = s.pc := rfl
@[simp] theorem State.timerPhase_stk : s.timerPhase.stk = s.stk := rfl
@[simp] theorem State.timerPhase_sp : s.timerPhase.sp = s.sp := rfl
@[simp] theorem State.timerPhase_dt : s.timerPhase.dt = countDown s.dt := rfl
@[simp] theorem State.timerPhase_st : s.timerPhase.st = countDown s.st := rfl
@[simp] theorem State.timerPhase_mem : s.timerPhase.mem = s.mem := rfl
@[simp] theorem State.timerPhase_fb : s.timerPhase.fb = s.fb := rfl
@[simp] theorem State.timerPhase_dirty : s.timerPhase.dirty = s.dirty := rfl
@[simp] theorem State.timerPhase_key : s.timerPhase.key = s.key := rfl
@[simp] theorem State.timerPhase_draws : s.timerPhase.draws = s.draws := rfl
@[simp] theorem State.timerPhase_reg (r : Reg) : s.timerPhase.reg r = s.reg r := rfl
@[simp] theorem State.timerPhase_byteAt (n : Nat) : s.timerPhase.byteAt n = s.byteAt n := rfl

/-! ### General registers -/

/-- R15: a register reads what was last written to it, and no other register is touched. -/
@[simp] theorem State.setReg_reg (x : Reg) (b : Byte) (r : Reg) :
    (s.setReg x b).reg r = if r = x then b else s.reg r := by
  simp only [State.setReg, State.reg, Fin.getElem_fin, Vector.getElem_set, Fin.ext_iff, eq_comm]

@[simp] theorem State.setFlag_reg (c : Bool) (r : Reg) :
    (s.setFlag c).reg r = if r = vf then b2n c else s.reg r := State.setReg_reg s vf (b2n c) r

/-- R150: the flag is what remains when the destination is `VF`. -/
@[simp] theorem State.setRegFlag_reg (x : Reg) (b : Byte) (c : Bool) (r : Reg) :
    (s.setRegFlag x b c).reg r = if r = vf then b2n c else if r = x then b else s.reg r := by
  simp [State.setRegFlag]

@[simp] theorem State.drawSprite_reg (x0 y0 : Nat) (rows : List Byte) (r : Reg) :
    (s.drawSprite x0 y0 rows).reg r = if r = vf then b2n (blit s.fb x0 y0 rows).hit else s.reg r :=
  State.setReg_reg (s.setScreen (blit s.fb x0 y0 rows).fb) vf _ r

/-- R198: the registers up to `x` take the bytes, those above keep their value. -/
@[simp] theorem State.loadRegs_reg (x : Reg) (bytes : List Byte) (r : Reg) :
    (s.loadRegs x bytes).reg r = if r.val ≤ x.val then bytes.getD r.val 0 else s.reg r := by
  simp [State.loadRegs, State.reg]

/-- R197: the bytes to be stored are `V[0]` to `V[x]`, one for each. -/
@[simp] theorem State.regsUpTo_length (x : Reg) : (s.regsUpTo x).length = x.val + 1 := by
  simp only [State.regsUpTo, List.length_take, Vector.length_toList]
  omega

theorem State.regsUpTo_getElem? (x k : Reg) (h : k.val ≤ x.val) : (s.regsUpTo x)[k.val]? = some (s.reg k) := by
  have hk : k.val < s.v.toList.length := by simp
  simp only [State.regsUpTo, List.getElem?_take]
  rw [if_pos (by omega), List.getElem?_eq_getElem hk]
  simp [State.reg]

/-- What a byte of memory is after a store has replaced memory. -/
theorem State.setMem_byteAt (m : Mem) (n : Nat) : (s.setMem m).byteAt n = Memory.read m n := rfl

end Sys2Proof.Machine
end

