-- ==== Sys2Proof/Laws/Ops.lean ====
section
/-!
SUPPORT. One lemma for each shared operation that says everything it can answer, for the policy of the model's
configuration where it takes one.
-/

namespace Sys2Proof.Machine

theorem addrPolicy_eq : Config.addrPolicy = .fault := rfl

/-! ### Outcomes -/

@[simp] theorem deliver_ok (t : State) : deliver (.ok t) = .next t := rfl

@[simp] theorem deliver_error (f : Fault) : deliver (.error f) = .fault f := rfl

theorem deliver_eq_next (e : Except Fault State) (t : State) : deliver e = .next t ↔ e = .ok t := by
  cases e <;> simp [deliver]

theorem deliver_eq_fault (e : Except Fault State) (f : Fault) : deliver e = .fault f ↔ e = .error f := by
  cases e <;> simp [deliver]

theorem deliver_ne_refused (e : Except Fault State) (r : Refusal) : deliver e ≠ .refused r := by
  cases e <;> simp [deliver]

theorem endTick_eq_next (o : Result) (t : State) : endTick o = .next t ↔ ∃ u, o = .next u ∧ t = u.timerPhase := by
  cases o <;> simp [endTick, eq_comm]

theorem endTick_eq_fault (o : Result) (f : Fault) : endTick o = .fault f ↔ o = .fault f := by
  cases o <;> simp [endTick]

theorem endTick_eq_refused (o : Result) (r : Refusal) : endTick o = .refused r ↔ o = .refused r := by
  cases o <;> simp [endTick]

/-! ### The return-address stack -/

theorem State.pushReturn_of_lt (s : State) (h : s.sp.val < 16) :
    s.pushReturn = .ok { s with stk := s.stk.set s.sp.val (s.pc + 2), sp := ⟨s.sp.val + 1, by omega⟩ } := by
  simp [State.pushReturn, h]

theorem State.pushReturn_full (s : State) (h : s.sp.val = 16) : s.pushReturn = .error (.stackOverflow s.pc) := by
  simp [State.pushReturn, h, raise]

/-- Everything a push can answer. -/
theorem State.pushReturn_cases (s : State) :
    (∃ h : s.sp.val < 16,
      s.pushReturn = .ok { s with stk := s.stk.set s.sp.val (s.pc + 2), sp := ⟨s.sp.val + 1, by omega⟩ }) ∨
    (s.sp.val = 16 ∧ s.pushReturn = .error (.stackOverflow s.pc)) := by
  rcases Nat.lt_or_ge s.sp.val 16 with h | h
  · exact .inl ⟨h, s.pushReturn_of_lt h⟩
  · have : s.sp.val = 16 := by omega
    exact .inr ⟨this, s.pushReturn_full this⟩

theorem State.popReturn_of_pos (s : State) (h : 0 < s.sp.val) :
    s.popReturn = .ok { s with sp := ⟨s.sp.val - 1, by omega⟩, pc := s.stk[s.sp.val - 1]'(by omega) } := by
  simp [State.popReturn, h]

theorem State.popReturn_empty (s : State) (h : s.sp.val = 0) : s.popReturn = .error (.stackUnderflow s.pc) := by
  simp [State.popReturn, h, raise]

/-- Everything a pop can answer. -/
theorem State.popReturn_cases (s : State) :
    (∃ h : 0 < s.sp.val,
      s.popReturn = .ok { s with sp := ⟨s.sp.val - 1, by omega⟩, pc := s.stk[s.sp.val - 1]'(by omega) }) ∨
    (s.sp.val = 0 ∧ s.popReturn = .error (.stackUnderflow s.pc)) := by
  rcases Nat.eq_zero_or_pos s.sp.val with h | h
  · exact .inr ⟨h, s.popReturn_empty h⟩
  · exact .inl ⟨h, s.popReturn_of_pos h⟩

/-! ### Fetch (R102) -/

/-- Everything the fetch can answer, alignment first. -/
theorem fetch_cases (s : State) :
    fetch Config.addrPolicy s =
      if s.pc.toNat % 2 = 1 then .error (.misalignedPc s.pc)
      else if Config.memSize ≤ s.pc.toNat then .error (.addressFault s.pc.toNat)
      else .ok (wordOfBytes (s.byteAt s.pc.toNat) (s.byteAt (s.pc.toNat + 1))) := by
  have hm : Config.memSize = 4096 := rfl
  simp only [fetch, raise, addrPolicy_eq, Memory.resolve]
  by_cases h1 : s.pc.toNat % 2 = 1
  · simp [h1]
  · by_cases h2 : s.pc.toNat < Config.memSize
    · have h3 : s.pc.toNat + 1 < Config.memSize := by omega
      have h4 : ¬ Config.memSize ≤ s.pc.toNat := by omega
      simp [h1, h2, h3, h4]
    · have h4 : Config.memSize ≤ s.pc.toNat := by omega
      simp [h1, h2, h4]

/-- When the fetch answers a word. -/
theorem fetch_eq_ok (s : State) (op : Word) :
    fetch Config.addrPolicy s = .ok op ↔
      s.pc.toNat % 2 = 0 ∧ s.pc.toNat < Config.memSize ∧
        op = wordOfBytes (s.byteAt s.pc.toNat) (s.byteAt (s.pc.toNat + 1)) := by
  rw [fetch_cases]
  split
  · simp; omega
  · split
    · simp; omega
    · simp only [Except.ok.injEq]
      constructor
      · rintro rfl; exact ⟨by omega, by omega, rfl⟩
      · rintro ⟨-, -, rfl⟩; rfl

/-! ### Accesses through `I` -/

/-- Everything a read of `n` bytes from `I` can answer (R64, R203). -/
theorem State.readFromI_cases (s : State) (n : Nat) :
    s.readFromI Config.addrPolicy n =
      if n = 0 ∨ s.i.toNat + n ≤ Config.memSize then .ok ((List.range' s.i.toNat n).map s.byteAt)
      else .error (.addressFault (max s.i.toNat Config.memSize)) := by
  simp only [State.readFromI, Memory.readSeq, addrPolicy_eq, Memory.resolveSeq_fault]
  by_cases h : n = 0 ∨ s.i.toNat + n ≤ Config.memSize
  · rw [if_pos h, if_pos h]; rfl
  · rw [if_neg h, if_neg h]

/-- Everything a store of bytes at `I` can answer (R64, R107, R203). -/
theorem State.storeAtI_cases (s : State) (bytes : List Byte) :
    s.storeAtI Config.addrPolicy bytes =
      if bytes.length = 0 ∨ s.i.toNat + bytes.length ≤ Config.memSize then
        .ok (s.setMem (Memory.writeAll s.mem (List.range' s.i.toNat bytes.length) bytes))
      else .error (.addressFault (max s.i.toNat Config.memSize)) := by
  simp only [State.storeAtI, Memory.writeSeq, addrPolicy_eq, Memory.resolveSeq_fault]
  by_cases h : bytes.length = 0 ∨ s.i.toNat + bytes.length ≤ Config.memSize
  · rw [if_pos h, if_pos h]; rfl
  · rw [if_neg h, if_neg h]; rfl

/-- What a byte reads as after a store at `I`: the stored byte inside the stored range, as before outside it. -/
theorem State.storeAtI_byteAt (s t : State) (bytes : List Byte) (c : Nat)
    (h : s.storeAtI Config.addrPolicy bytes = .ok t) :
    t.byteAt c = if s.i.toNat ≤ c then (bytes[c - s.i.toNat]?).getD (s.byteAt c) else s.byteAt c := by
  rw [State.storeAtI_cases] at h
  split at h
  · cases h
    exact Memory.read_writeAll_range s.mem s.i.toNat bytes c
  · cases h

/-- A store at `I` keeps memory's canonical form. -/
theorem State.storeAtI_wf (policy : AddrPolicy) (s t : State) (bytes : List Byte) (hs : Memory.wf s.mem = true)
    (h : s.storeAtI policy bytes = .ok t) : Memory.wf t.mem = true := by
  simp only [State.storeAtI] at h
  cases hw : Memory.writeSeq policy s.mem s.i.toNat bytes with
  | error f => rw [hw] at h; cases h
  | ok m => rw [hw] at h; cases h; exact Memory.wf_writeSeq policy s.mem m _ bytes hs hw

/-- Placing a word for the fetch keeps memory's canonical form. -/
theorem State.placeWord_wf (s : State) (op : Word) (hs : Memory.wf s.mem = true) :
    Memory.wf (s.placeWord op).mem = true := by
  unfold State.placeWord
  split
  · rename_i m hm; exact Memory.wf_writeSeq _ _ _ _ _ hs hm
  · exact hs

/-! ### Timers, literals, keys -/

/-- R29: down by one while non-zero, never below zero. -/
theorem countDown_toNat (b : Byte) : (countDown b).toNat = b.toNat - 1 := by
  unfold countDown
  split
  · rename_i h; subst h; rfl
  · rename_i h
    have : b.toNat ≠ 0 := fun h' => h (BitVec.eq_of_toNat_eq (by simpa using h'))
    have := b.isLt
    have h1 : (1 : Byte).toNat = 1 := rfl
    rw [BitVec.toNat_sub, h1]
    omega

@[simp] theorem literal_toNat (nnn : Lit12) : (literal nnn).toNat = nnn.toNat := by
  have := nnn.isLt
  simp only [literal, BitVec.toNat_setWidth]
  omega

@[simp] theorem zext_toNat (b : Byte) : (zext b).toNat = b.toNat := by
  have := b.isLt
  simp only [zext, BitVec.toNat_setWidth]
  omega

/-- R124: the sum fits in 16 bits, so nothing is lost. -/
theorem indexedTarget_toNat (s : State) (nnn : Lit12) :
    (indexedTarget s nnn).toNat = nnn.toNat + (s.reg 0).toNat := by
  have := nnn.isLt
  have := (s.reg 0).isLt
  simp only [indexedTarget, BitVec.toNat_add, literal_toNat, zext_toNat]
  omega

@[simp] theorem keyIndex_val (b : Byte) : (keyIndex b).val = b.toNat % 16 := rfl

theorem State.mem_pressedKeys (s : State) (k : Fin 16) : k ∈ s.pressedKeys ↔ s.key[k] = true := by
  simp [State.pressedKeys]

/-- The key picked is one of the pressed ones, under either choice (R191). -/
theorem pickKey_mem (choice : KeyChoice) (d : Nat) (k : Fin 16) (ks : List (Fin 16)) :
    pickKey choice d k ks ∈ k :: ks := by
  unfold pickKey
  split
  · simp
  · simp
  · rename_i j js
    have h : d % ((j :: js).length + 1) < (k :: j :: js).length := Nat.mod_lt _ (by simp)
    rw [List.getD_eq_getElem?_getD, List.getElem?_eq_getElem h]
    exact List.getElem_mem h

end Sys2Proof.Machine
end

