-- ==== Sys2Proof/Laws/PerInstr.lean ====
section
/-!
SUPPORT. The statements made for all instructions, one lemma per constructor: the word the encoder gives an instruction
belongs to the row of the opcode map (R87) that the instruction stands for.
-/

namespace Sys2Proof.Laws.MatchesRow

/-- The encoding of `i` satisfies `op & mask == match` for `i`'s row of R87. -/
def Statement (i : Instr) : Prop := (rowOf i).selects (encode i) = true

theorem selects_packNNN (f : BitVec 4) (nnn : Lit12) (m : Word) (hm : m &&& 0xF000#16 = m) (hf : fieldF m = f) :
    OpcodeRow.selects ⟨m, 0xF000#16⟩ (packNNN f nnn) = true := by
  simp only [OpcodeRow.selects, beq_iff_eq, maskF_iff _ _ hm, fieldF_packNNN, hf]

theorem selects_packXNN (f : BitVec 4) (x : Reg) (nn : Byte) (m : Word) (hm : m &&& 0xF000#16 = m)
    (hf : fieldF m = f) : OpcodeRow.selects ⟨m, 0xF000#16⟩ (packXNN f x nn) = true := by
  simp only [OpcodeRow.selects, beq_iff_eq, maskF_iff _ _ hm, fieldF_packXNN, hf]

theorem selects_packXSS (f : BitVec 4) (x : Reg) (nn : Byte) (m : Word) (hm : m &&& 0xF0FF#16 = m)
    (hf : fieldF m = f) (hn : fieldNN m = nn) : OpcodeRow.selects ⟨m, 0xF0FF#16⟩ (packXNN f x nn) = true := by
  simp only [OpcodeRow.selects, beq_iff_eq, maskFNN_iff _ _ hm, fieldF_packXNN, fieldNN_packXNN, hf, hn, and_self]

theorem selects_packXYS (f : BitVec 4) (x y : Reg) (n : BitVec 4) (m : Word) (hm : m &&& 0xF00F#16 = m)
    (hf : fieldF m = f) (hn : fieldN m = n) : OpcodeRow.selects ⟨m, 0xF00F#16⟩ (packXYN f x y n) = true := by
  simp only [OpcodeRow.selects, beq_iff_eq, maskFN_iff _ _ hm, fieldF_packXYN, fieldN_packXYN, hf, hn, and_self]

theorem selects_packXYN (f : BitVec 4) (x y : Reg) (n : BitVec 4) (m : Word) (hm : m &&& 0xF000#16 = m)
    (hf : fieldF m = f) : OpcodeRow.selects ⟨m, 0xF000#16⟩ (packXYN f x y n) = true := by
  simp only [OpcodeRow.selects, beq_iff_eq, maskF_iff _ _ hm, fieldF_packXYN, hf]

theorem cls : Statement .cls :=
  by unfold Statement; decide

theorem ret : Statement .ret :=
  by unfold Statement; decide

theorem jp (nnn : Lit12) : Statement (.jp nnn) :=
  selects_packNNN _ nnn _ (by decide) (by decide)

theorem call (nnn : Lit12) : Statement (.call nnn) :=
  selects_packNNN _ nnn _ (by decide) (by decide)

theorem seImm (x : Reg) (nn : Byte) : Statement (.seImm x nn) :=
  selects_packXNN _ x nn _ (by decide) (by decide)

theorem sneImm (x : Reg) (nn : Byte) : Statement (.sneImm x nn) :=
  selects_packXNN _ x nn _ (by decide) (by decide)

theorem seReg (x : Reg) (y : Reg) : Statement (.seReg x y) :=
  selects_packXYS _ x y _ _ (by decide) (by decide) (by decide)

theorem ldImm (x : Reg) (nn : Byte) : Statement (.ldImm x nn) :=
  selects_packXNN _ x nn _ (by decide) (by decide)

theorem addImm (x : Reg) (nn : Byte) : Statement (.addImm x nn) :=
  selects_packXNN _ x nn _ (by decide) (by decide)

theorem ldReg (x : Reg) (y : Reg) : Statement (.ldReg x y) :=
  selects_packXYS _ x y _ _ (by decide) (by decide) (by decide)

theorem orReg (x : Reg) (y : Reg) : Statement (.orReg x y) :=
  selects_packXYS _ x y _ _ (by decide) (by decide) (by decide)

theorem andReg (x : Reg) (y : Reg) : Statement (.andReg x y) :=
  selects_packXYS _ x y _ _ (by decide) (by decide) (by decide)

theorem xorReg (x : Reg) (y : Reg) : Statement (.xorReg x y) :=
  selects_packXYS _ x y _ _ (by decide) (by decide) (by decide)

theorem addReg (x : Reg) (y : Reg) : Statement (.addReg x y) :=
  selects_packXYS _ x y _ _ (by decide) (by decide) (by decide)

theorem sub (x : Reg) (y : Reg) : Statement (.sub x y) :=
  selects_packXYS _ x y _ _ (by decide) (by decide) (by decide)

theorem shr (x : Reg) (y : Reg) : Statement (.shr x y) :=
  selects_packXYS _ x y _ _ (by decide) (by decide) (by decide)

theorem subn (x : Reg) (y : Reg) : Statement (.subn x y) :=
  selects_packXYS _ x y _ _ (by decide) (by decide) (by decide)

theorem shl (x : Reg) (y : Reg) : Statement (.shl x y) :=
  selects_packXYS _ x y _ _ (by decide) (by decide) (by decide)

theorem sneReg (x : Reg) (y : Reg) : Statement (.sneReg x y) :=
  selects_packXYS _ x y _ _ (by decide) (by decide) (by decide)

theorem ldI (nnn : Lit12) : Statement (.ldI nnn) :=
  selects_packNNN _ nnn _ (by decide) (by decide)

theorem jpV0 (nnn : Lit12) : Statement (.jpV0 nnn) :=
  selects_packNNN _ nnn _ (by decide) (by decide)

theorem rnd (x : Reg) (nn : Byte) : Statement (.rnd x nn) :=
  selects_packXNN _ x nn _ (by decide) (by decide)

theorem drw (x : Reg) (y : Reg) (n : Nat) : Statement (.drw x y n) :=
  selects_packXYN _ x y _ _ (by decide) (by decide)

theorem skp (x : Reg) : Statement (.skp x) :=
  selects_packXSS _ x _ _ (by decide) (by decide) (by decide)

theorem sknp (x : Reg) : Statement (.sknp x) :=
  selects_packXSS _ x _ _ (by decide) (by decide) (by decide)

theorem ldVxDt (x : Reg) : Statement (.ldVxDt x) :=
  selects_packXSS _ x _ _ (by decide) (by decide) (by decide)

theorem ldVxK (x : Reg) : Statement (.ldVxK x) :=
  selects_packXSS _ x _ _ (by decide) (by decide) (by decide)

theorem ldDtVx (x : Reg) : Statement (.ldDtVx x) :=
  selects_packXSS _ x _ _ (by decide) (by decide) (by decide)

theorem ldStVx (x : Reg) : Statement (.ldStVx x) :=
  selects_packXSS _ x _ _ (by decide) (by decide) (by decide)

theorem addI (x : Reg) : Statement (.addI x) :=
  selects_packXSS _ x _ _ (by decide) (by decide) (by decide)

theorem ldF (x : Reg) : Statement (.ldF x) :=
  selects_packXSS _ x _ _ (by decide) (by decide) (by decide)

theorem ldB (x : Reg) : Statement (.ldB x) :=
  selects_packXSS _ x _ _ (by decide) (by decide) (by decide)

theorem ldMemVx (x : Reg) : Statement (.ldMemVx x) :=
  selects_packXSS _ x _ _ (by decide) (by decide) (by decide)

theorem ldVxMem (x : Reg) : Statement (.ldVxMem x) :=
  selects_packXSS _ x _ _ (by decide) (by decide) (by decide)

end Sys2Proof.Laws.MatchesRow
end

