-- ==== Sys2Proof/Laws/Screen.lean ====
section
/-!
SUPPORT. The framebuffer: a flipped pixel, a blank screen, the pixels a sprite falls on, and what a fold of set pixels
does to one pixel.
-/

namespace Sys2Proof.Machine

/-- Two screens with the same pixels are the same screen. -/
theorem Screen.ext_pixel (f g : Screen) (h : ∀ p, f.pixel p = g.pixel p) : f = g := by
  apply Vector.ext
  intro y hy
  apply Vector.ext
  intro x hx
  exact h (⟨x, hx⟩, ⟨y, hy⟩)

/-- The XOR of one pixel changes that pixel and no other. -/
@[simp] theorem Screen.pixel_flip (fb : Screen) (p q : Pixel) :
    (fb.flip p).pixel q = if q = p then !fb.pixel q else fb.pixel q := by
  obtain ⟨px, py⟩ := p
  obtain ⟨qx, qy⟩ := q
  simp only [Screen.flip, Screen.pixel, Fin.getElem_fin, Vector.getElem_set]
  by_cases hy : py = qy
  · subst hy
    by_cases hx : px = qx
    · subst hx; simp
    · have h1 : ¬ px.val = qx.val := fun h => hx (Fin.ext h)
      have h2 : ¬ qx = px := fun h => hx h.symm
      simp [h1, h2]
  · have h1 : ¬ py.val = qy.val := fun h => hy (Fin.ext h)
    have h2 : ¬ qy = py := fun h => hy h.symm
    simp [h1, h2]

@[simp] theorem Screen.pixel_blank (p : Pixel) : Screen.blank.pixel p = false := by
  simp [Screen.blank, Screen.pixel]

/-- The places one sprite row falls on. -/
theorem mem_rowTargets (x0 y : Nat) (row : Byte) (p : Pixel) :
    p ∈ rowTargets x0 y row ↔
      ∃ c, c < 8 ∧ row.getLsbD (7 - c) = true ∧ p = (wrapX (x0 + c), wrapY y) := by
  simp only [rowTargets, List.mem_map, List.mem_filter, List.mem_range]
  constructor
  · rintro ⟨c, ⟨hc, hb⟩, rfl⟩; exact ⟨c, hc, hb, rfl⟩
  · rintro ⟨c, hc, hb, rfl⟩; exact ⟨c, ⟨hc, hb⟩, rfl⟩

/-- The places a sprite falls on. -/
theorem mem_spriteTargets (x0 y : Nat) (rows : List Byte) (p : Pixel) :
    p ∈ spriteTargets x0 y rows ↔
      ∃ r c row, rows[r]? = some row ∧ c < 8 ∧ row.getLsbD (7 - c) = true ∧ p = (wrapX (x0 + c), wrapY (y + r)) := by
  induction rows generalizing y with
  | nil => simp [spriteTargets]
  | cons b bs ih =>
    simp only [spriteTargets, List.mem_append, ih, mem_rowTargets]
    constructor
    · rintro (⟨c, hc, hb, rfl⟩ | ⟨r, c, row, hr, hc, hb, rfl⟩)
      · exact ⟨0, c, b, by simp, hc, hb, by simp⟩
      · exact ⟨r + 1, c, row, by simpa using hr, hc, hb, by rw [Nat.add_right_comm, Nat.add_assoc]⟩
    · rintro ⟨r, c, row, hr, hc, hb, rfl⟩
      cases r with
      | zero =>
        simp only [List.length_cons, Nat.zero_lt_succ, getElem?_pos, List.getElem_cons_zero, Option.some.injEq] at hr
        subst hr
        exact .inl ⟨c, hc, hb, by simp⟩
      | succ r =>
        exact .inr ⟨r, c, row, by simpa using hr, hc, hb, by rw [Nat.add_right_comm, Nat.add_assoc]⟩

/-- With at most `FB_HEIGHT` rows no pixel is touched twice by one call (R174). -/
theorem spriteTargets_nodup (x0 y : Nat) (rows : List Byte) (h : rows.length ≤ Config.fbHeight) :
    (spriteTargets x0 y rows).Nodup := by
  induction rows generalizing y with
  | nil => exact List.nodup_nil
  | cons b bs ih =>
    refine List.nodup_append'.mpr ⟨?_, ih _ (by simp at h ⊢; omega), ?_⟩
    · refine List.Nodup.map_on ?_ (List.nodup_range.filter _)
      intro c hc d hd hcd
      have h1 := congrArg (fun p : Pixel => p.1.val) hcd
      simp only [List.mem_filter, List.mem_range] at hc hd
      simp only [wrapX, Config.fbWidth] at h1
      omega
    · intro p hp hq
      obtain ⟨c, -, -, rfl⟩ := (mem_rowTargets _ _ _ _).mp hp
      obtain ⟨r, d, row, hr, -, -, hpq⟩ := (mem_spriteTargets _ _ _ _).mp hq
      have h1 := congrArg (fun p : Pixel => p.2.val) hpq
      have h2 : r < bs.length := by
        rcases Nat.lt_or_ge r bs.length with h | h
        · exact h
        · rw [List.getElem?_eq_none h] at hr; cases hr
      simp only [wrapY, Config.fbHeight] at h1 h
      simp only [List.length_cons] at h
      omega

/-- A fold over pixels without repeats toggles exactly them. -/
theorem foldl_blitPixel_pixel (ps : List Pixel) (hn : ps.Nodup) (d : Blit) (q : Pixel) :
    (ps.foldl blitPixel d).fb.pixel q = if q ∈ ps then !d.fb.pixel q else d.fb.pixel q := by
  induction ps generalizing d with
  | nil => simp
  | cons p ps ih =>
    obtain ⟨hp, hn⟩ := List.nodup_cons.mp hn
    rw [List.foldl_cons, ih hn]
    simp only [blitPixel, Screen.pixel_flip, List.mem_cons]
    by_cases hq : q = p
    · subst hq; simp [hp]
    · simp [hq]

/-- A fold over pixels without repeats collides exactly when one of them was on. -/
theorem foldl_blitPixel_hit (ps : List Pixel) (hn : ps.Nodup) (d : Blit) :
    (ps.foldl blitPixel d).hit = true ↔ d.hit = true ∨ ∃ p ∈ ps, d.fb.pixel p = true := by
  induction ps generalizing d with
  | nil => simp
  | cons p ps ih =>
    obtain ⟨hp, hn⟩ := List.nodup_cons.mp hn
    rw [List.foldl_cons, ih hn]
    have h : ∀ q ∈ ps, (d.fb.flip p).pixel q = d.fb.pixel q := by
      intro q hq
      have : q ≠ p := fun h => hp (h ▸ hq)
      simp [this]
    simp only [blitPixel, Bool.or_eq_true, List.mem_cons, exists_eq_or_imp]
    constructor
    · rintro ((h1 | h1) | ⟨q, hq, h1⟩)
      · exact .inl h1
      · exact .inr (.inl h1)
      · exact .inr (.inr ⟨q, hq, by rwa [h q hq] at h1⟩)
    · rintro (h1 | h1 | ⟨q, hq, h1⟩)
      · exact .inl (.inl h1)
      · exact .inl (.inr h1)
      · exact .inr ⟨q, hq, by rwa [h q hq]⟩

end Sys2Proof.Machine
end

