-- ==== Sys2Proof/Tests/Slice0.lean ====
section
/-!
SUPPORT. Tests. The expected results are those of spec/95_test_vectors.md (the vector's name stands with the test), the
words are written out from the encodings of spec/30_encoding.md R87. Then, for every statement with hypotheses, a witness:
a concrete state and operands that meet them, at the boundary values of each clause.
-/

open Sys2Proof Sys2Proof.Machine

namespace Sys2Proof.Tests

/-! ### Helpers -/

/-- The reset state with `PC` and some general registers set. -/
def atPc (pc : Word) (rs : List (Reg × Byte)) : State :=
  rs.foldl (fun s r => s.setReg r.1 r.2) { State.reset with pc := pc }

/-- Bytes stored from offset `a` upward. -/
def poke (s : State) (a : Nat) (bytes : List Byte) : State := s.setMem (Memory.load s.mem a bytes)

/-- Some keys pressed. -/
def press (s : State) (ks : List (Fin 16)) : State := { s with key := ks.foldl (fun (k : Vector Bool 16) (i : Fin 16) => k.set i true) s.key }

/-- The stack pointer set. -/
def withSp (s : State) (sp : Fin 17) : State := { s with sp := sp }

/-- What a view of the next state shows, where there is one. -/
def view {α : Type} (f : State → α) : Result → Option α
  | .next t => some (f t)
  | .fault _ => none
  | .refused _ => none

/-- The fault, where there is one. -/
def faultOf : Result → Option Fault
  | .next _ => none
  | .fault f => some f
  | .refused _ => none

/-- One tick from `s` with the word `op` placed at `PC`. -/
def tickOn (op : Word) (s : State) : Result := step (s.withFetchWord 16 op.toNat)

/-! ### Well-formedness: the one check there is refuses an ill-formed term -/

theorem test_wf_refuses_sixteen_rows : (Instr.drw 0 0 16).WellFormed = false := by decide

theorem test_wf_accepts_fifteen_rows : (Instr.drw 0 0 15).WellFormed = true := by decide

/-! ### Decoding: one word per constructor, written out from R87 -/

theorem test_decode_cls : decode 0b0000_0000_1110_0000#16 = some .cls := by decide
theorem test_decode_ret : decode 0b0000_0000_1110_1110#16 = some .ret := by decide
theorem test_decode_jp : decode 0b0001_0010_1111_0000#16 = some (.jp 0x2F0) := by decide
theorem test_decode_call : decode 0b0010_0011_0000_0100#16 = some (.call 0x304) := by decide
theorem test_decode_seImm : decode 0b0011_0011_0010_1010#16 = some (.seImm 3 0x2A) := by decide
theorem test_decode_sneImm : decode 0b0100_0011_0010_1010#16 = some (.sneImm 3 0x2A) := by decide
theorem test_decode_seReg : decode 0b0101_0001_0010_0000#16 = some (.seReg 1 2) := by decide
theorem test_decode_ldImm : decode 0b0110_1010_0000_0010#16 = some (.ldImm 10 0x02) := by decide
theorem test_decode_addImm : decode 0b0111_0010_0010_0001#16 = some (.addImm 2 0x21) := by decide
theorem test_decode_ldReg : decode 0b1000_1010_1011_0000#16 = some (.ldReg 10 11) := by decide
theorem test_decode_orReg : decode 0b1000_0001_0010_0001#16 = some (.orReg 1 2) := by decide
theorem test_decode_andReg : decode 0b1000_0001_0010_0010#16 = some (.andReg 1 2) := by decide
theorem test_decode_xorReg : decode 0b1000_0001_0010_0011#16 = some (.xorReg 1 2) := by decide
theorem test_decode_addReg : decode 0b1000_0001_0010_0100#16 = some (.addReg 1 2) := by decide
theorem test_decode_sub : decode 0b1000_0001_0010_0101#16 = some (.sub 1 2) := by decide
theorem test_decode_shr : decode 0b1000_0001_0010_0110#16 = some (.shr 1 2) := by decide
theorem test_decode_subn : decode 0b1000_0001_0010_0111#16 = some (.subn 1 2) := by decide
theorem test_decode_shl : decode 0b1000_0001_0010_1110#16 = some (.shl 1 2) := by decide
theorem test_decode_sneReg : decode 0b1001_0001_0010_0000#16 = some (.sneReg 1 2) := by decide
theorem test_decode_ldI : decode 0b1010_0011_0000_0100#16 = some (.ldI 0x304) := by decide
theorem test_decode_jpV0 : decode 0b1011_0011_0000_0100#16 = some (.jpV0 0x304) := by decide
theorem test_decode_rnd : decode 0b1100_0011_0000_1111#16 = some (.rnd 3 0x0F) := by decide
theorem test_decode_drw : decode 0b1101_1111_0010_0001#16 = some (.drw 15 2 1) := by decide
theorem test_decode_skp : decode 0b1110_0100_1001_1110#16 = some (.skp 4) := by decide
theorem test_decode_sknp : decode 0b1110_0100_1010_0001#16 = some (.sknp 4) := by decide
theorem test_decode_ldVxDt : decode 0b1111_0011_0000_0111#16 = some (.ldVxDt 3) := by decide
theorem test_decode_ldVxK : decode 0b1111_0010_0000_1010#16 = some (.ldVxK 2) := by decide
theorem test_decode_ldDtVx : decode 0b1111_0011_0001_0101#16 = some (.ldDtVx 3) := by decide
theorem test_decode_ldStVx : decode 0b1111_0101_0001_1000#16 = some (.ldStVx 5) := by decide
theorem test_decode_addI : decode 0b1111_1010_0001_1110#16 = some (.addI 10) := by decide
theorem test_decode_ldF : decode 0b1111_0011_0010_1001#16 = some (.ldF 3) := by decide
theorem test_decode_ldB : decode 0b1111_0010_0011_0011#16 = some (.ldB 2) := by decide
theorem test_decode_ldMemVx : decode 0b1111_0010_0101_0101#16 = some (.ldMemVx 2) := by decide
theorem test_decode_ldVxMem : decode 0b1111_1110_0110_0101#16 = some (.ldVxMem 14) := by decide

/-- DC1 to DC13: the words no row matches. -/
theorem test_decode_unrecognized :
    ([0x0000, 0x01E0, 0x00E1, 0x0200, 0x5121, 0x9125, 0x8008, 0x812F, 0xE09F, 0xE000, 0xF000, 0xF075,
      0xFFFF] : List Word).all (fun op => decode op == none) = true := by decide

/-- R87: "The rows are pairwise disjoint (no word matches two rows)". -/
theorem test_rows_disjoint : opcodeMap.Pairwise (fun r q => r.disjoint q = true) := by decide

theorem test_rows_are_34 : opcodeMap.length = 34 := by decide

/-- The bytes of `0x6005`, with what follows them; and a lone byte. -/
theorem test_decodeBytes : decodeBytes [0x60, 0x05, 0xF0] = .ok (.ldImm 0 0x05, [0xF0]) ∧
    decodeBytes [0x60] = .error (.truncated 1) ∧ decodeBytes [0xFF, 0xFF] = .error (.unrecognized 0xFFFF) ∧
    encodeBytes (.ldImm 0 0x05) = [0x60, 0x05] := ⟨rfl, rfl, rfl, rfl⟩

/-! ### Control flow (CF1 to CF12, S4, S5) -/

/-- S4. -/
theorem test_jp : view (fun t => t.pc) (tickOn 0x12F0 (atPc 0x200 [])) = some 0x2F0 := by decide

/-- CF3: the jump completes; the next tick is misaligned. -/
theorem test_jp_odd : view (fun t => (t.pc, faultOf (step t))) (tickOn 0x1201 (atPc 0x200 [])) =
    some (0x201, some (.misalignedPc 0x201)) := by decide

/-- CF4. -/
theorem test_call_sixteenth : view (fun t => (t.stk[15], t.sp, t.pc)) (tickOn 0x2400 (withSp (atPc 0x200 []) 15)) =
    some (0x202, 16, 0x400) := by decide

/-- CF5. -/
theorem test_call_overflow : faultOf (tickOn 0x2400 (withSp (atPc 0x200 []) 16)) = some (.stackOverflow 0x200) := by
  decide

/-- CF7. -/
theorem test_ret : view (fun t => (t.sp, t.pc, t.stk[1]))
    (tickOn 0x00EE { withSp (atPc 0x300 []) 2 with stk := (State.reset.stk.set 0 0x202).set 1 0x24C }) =
    some (1, 0x24C, 0x24C) := by decide

/-- CF6. -/
theorem test_ret_underflow : faultOf (tickOn 0x00EE (atPc 0x300 [])) = some (.stackUnderflow 0x300) := by decide

/-- CF11: `V[3]` plays no part. -/
theorem test_jpV0 : view (fun t => t.pc) (tickOn 0xB300 (atPc 0x200 [(0, 0x04), (3, 0x50)])) = some 0x304 := by decide

/-- CF9: the sum is not reduced; the next tick is outside memory. -/
theorem test_jpV0_beyond : view (fun t => (t.pc, faultOf (step t))) (tickOn 0xBFFF (atPc 0x200 [(0, 0xFF)])) =
    some (0x10FE, some (.addressFault 0x10FE)) := by decide

/-! ### Skips (SK1 to SK12, KY1 to KY6) -/

/-- SK1, SK2. -/
theorem test_seImm : view (fun t => t.pc) (tickOn 0x332A (atPc 0x200 [(3, 0x2A)])) = some 0x204 ∧
    view (fun t => t.pc) (tickOn 0x332A (atPc 0x200 [(3, 0x2B)])) = some 0x202 := by decide

/-- SK12: a skip at the top of memory; the fault is the next tick's. -/
theorem test_seImm_top : view (fun t => (t.pc, faultOf (step t))) (tickOn 0x3000 (atPc 0xFFC [])) =
    some (0x1000, some (.addressFault 0x1000)) := by decide

/-- SK3, SK4. -/
theorem test_sneImm : view (fun t => t.pc) (tickOn 0x432A (atPc 0x200 [(3, 0x2A)])) = some 0x202 ∧
    view (fun t => t.pc) (tickOn 0x432A (atPc 0x200 [])) = some 0x204 := by decide

/-- SK5, SK6. -/
theorem test_seReg : view (fun t => t.pc) (tickOn 0x5120 (atPc 0x200 [(1, 7), (2, 7)])) = some 0x204 ∧
    view (fun t => t.pc) (tickOn 0x5120 (atPc 0x200 [(1, 7), (2, 8)])) = some 0x202 := by decide

/-- SK8, SK9. -/
theorem test_sneReg : view (fun t => t.pc) (tickOn 0x9120 (atPc 0x200 [(1, 7), (2, 8)])) = some 0x204 ∧
    view (fun t => t.pc) (tickOn 0x9550 (atPc 0x200 [(5, 3)])) = some 0x202 := by decide

/-- KY1, KY2. -/
theorem test_skp : view (fun t => t.pc) (tickOn 0xE49E (press (atPc 0x200 [(4, 7)]) [7])) = some 0x204 ∧
    view (fun t => t.pc) (tickOn 0xE49E (atPc 0x200 [(4, 7)])) = some 0x202 := by decide

/-- KY5: index `0x17 mod 16`. -/
theorem test_skp_index : view (fun t => t.pc) (tickOn 0xE49E (press (atPc 0x200 [(4, 0x17)]) [7])) = some 0x204 := by
  decide

/-- KY3, KY4. -/
theorem test_sknp : view (fun t => t.pc) (tickOn 0xE4A1 (atPc 0x200 [(4, 7)])) = some 0x204 ∧
    view (fun t => t.pc) (tickOn 0xE4A1 (press (atPc 0x200 [(4, 7)]) [7])) = some 0x202 := by decide

/-! ### Immediate and register arithmetic (IM1 to IM7, A1 to A38) -/

/-- IM2. -/
theorem test_ldImm_vf : view (fun t => (t.reg 15, t.pc)) (tickOn 0x6FFF (atPc 0x200 [])) = some (0xFF, 0x202) := by
  decide

/-- IM3: no carry flag. -/
theorem test_addImm_wraps : view (fun t => (t.reg 2, t.reg 15)) (tickOn 0x7201 (atPc 0x200 [(2, 0xFF)])) =
    some (0, 0) := by decide

/-- IM7: not a flag. -/
theorem test_addImm_vf : view (fun t => t.reg 15) (tickOn 0x7F03 (atPc 0x200 [(15, 0xFE)])) = some 1 := by decide

/-- A1. -/
theorem test_ldReg : view (fun t => (t.reg 1, t.reg 2)) (tickOn 0x8120 (atPc 0x200 [(1, 0x11), (2, 0x22)])) =
    some (0x22, 0x22) := by decide

/-- A2. -/
theorem test_orReg : view (fun t => (t.reg 1, t.reg 15))
    (tickOn 0x8121 (atPc 0x200 [(1, 0xF0), (2, 0x0F), (15, 1)])) = some (0xFF, 1) := by decide

/-- A3. -/
theorem test_andReg : view (fun t => (t.reg 1, t.reg 15))
    (tickOn 0x8122 (atPc 0x200 [(1, 0xF3), (2, 0x3F), (15, 1)])) = some (0x33, 1) := by decide

/-- A4. -/
theorem test_xorReg : view (fun t => (t.reg 1, t.reg 15))
    (tickOn 0x8123 (atPc 0x200 [(1, 0xFF), (2, 0x0F), (15, 1)])) = some (0xF0, 1) := by decide

/-- A8 (sum exactly 255) and A6. -/
theorem test_addReg_carry : view (fun t => (t.reg 1, t.reg 15))
      (tickOn 0x8124 (atPc 0x200 [(1, 0xF0), (2, 0x0F), (15, 1)])) = some (0xFF, 0) ∧
    view (fun t => (t.reg 1, t.reg 15)) (tickOn 0x8124 (atPc 0x200 [(1, 0xFF), (2, 1)])) = some (0, 1) := by decide

/-- A11 (`Y = 15`: the old `VF` is the addend) and A13 (`X = 15`: the flag remains). -/
theorem test_addReg_vf : view (fun t => (t.reg 0, t.reg 15))
      (tickOn 0x80F4 (atPc 0x200 [(0, 0x01), (15, 0xFF)])) = some (0, 1) ∧
    view (fun t => t.reg 15) (tickOn 0x8F14 (atPc 0x200 [(15, 0x10), (1, 0x20)])) = some 0 := by decide

/-- A15 and A16. -/
theorem test_sub_borrow : view (fun t => (t.reg 1, t.reg 15)) (tickOn 0x8125 (atPc 0x200 [(1, 3), (2, 5)])) =
      some (0xFE, 0) ∧
    view (fun t => (t.reg 1, t.reg 15)) (tickOn 0x8125 (atPc 0x200 [(1, 9), (2, 9)])) = some (0, 1) := by decide

/-- A20: `X = 15`. -/
theorem test_sub_vf : view (fun t => t.reg 15) (tickOn 0x8F15 (atPc 0x200 [(15, 3), (1, 5)])) = some 0 := by decide

/-- A25: `Y` ignored. -/
theorem test_shr : view (fun t => (t.reg 1, t.reg 2, t.reg 15)) (tickOn 0x8126 (atPc 0x200 [(1, 0x05), (2, 0xF0)])) =
    some (0x02, 0xF0, 1) := by decide

/-- A27: `X = 15`, the shifted value is lost. -/
theorem test_shr_vf : view (fun t => t.reg 15) (tickOn 0x8F06 (atPc 0x200 [(15, 0x02)])) = some 0 := by decide

/-- A29. -/
theorem test_subn : view (fun t => (t.reg 1, t.reg 15)) (tickOn 0x8127 (atPc 0x200 [(1, 5), (2, 3)])) =
    some (0xFE, 0) := by decide

/-- A31: `X = 15`. -/
theorem test_subn_vf : view (fun t => t.reg 15) (tickOn 0x8F17 (atPc 0x200 [(15, 3), (1, 5)])) = some 1 := by decide

/-- A36: `Y` ignored. -/
theorem test_shl : view (fun t => (t.reg 1, t.reg 2, t.reg 15)) (tickOn 0x812E (atPc 0x200 [(1, 0x01), (2, 0x80)])) =
    some (0x02, 0x80, 0) := by decide

/-- A38: `X = 15`, the shifted value is lost. -/
theorem test_shl_vf : view (fun t => t.reg 15) (tickOn 0x8F0E (atPc 0x200 [(15, 0x7F)])) = some 0 := by decide

/-! ### Index, random, draw, clear (IX1 to IX6, DR1 to DR14) -/

/-- IX1. -/
theorem test_ldI : view (fun t => (t.i, t.pc)) (tickOn 0xA300 { atPc 0x200 [] with i := 0xFFFF }) =
    some (0x300, 0x202) := by decide

/-- IX4: masked by 0, whatever the draw; and the draw is counted. -/
theorem test_rnd_mask_zero : view (fun t => (t.reg 3, t.draws)) (exec (.rnd 3 0x00) (atPc 0x200 [(3, 0x55)])) =
    some (0, 1) := by
  simp [view, exec, execRnd]
  decide

/-- DR1: the wrap on the right edge. -/
theorem test_drw_wraps : view (fun t => (t.fb.pixel (63, 31), t.fb.pixel (0, 31), t.fb.pixel (1, 31), t.reg 15, t.dirty))
    (tickOn 0xD121 (poke { atPc 0x200 [(1, 63), (2, 31)] with i := 0x300 } 0x300 [0xC0])) =
    some (true, true, false, 0, true) := by decide

/-- DR10: `X = 15`, the old `VF` is the column. -/
theorem test_drw_vf : view (fun t => (t.fb.pixel (10, 3), t.reg 15))
    (tickOn 0xDF21 (poke { atPc 0x200 [(15, 0x0A), (2, 3)] with i := 0x300 } 0x300 [0x80])) = some (true, 0) := by decide

/-- IX6. -/
theorem test_cls : view (fun t => (t.fb.pixel (5, 5), t.dirty, t.reg 15))
    (tickOn 0x00E0 { atPc 0x200 [(15, 1)] with fb := State.reset.fb.flip (5, 5) }) = some (false, true, 1) := by decide

/-! ### Family 0xF (TM1 to TM29, KW1 to KW6), whole ticks -/

/-- TM1. -/
theorem test_ldVxDt : view (fun t => (t.reg 3, t.dt)) (tickOn 0xF307 { atPc 0x200 [] with dt := 0x2A }) =
    some (0x2A, 0x29) := by decide

/-- KW1: a waiting tick. -/
theorem test_ldVxK_waits : view (fun t => (t.reg 2, t.pc, t.dt)) (tickOn 0xF20A { atPc 0x206 [] with dt := 2 }) =
    some (0, 0x206, 1) := by decide

/-- KW4: level-triggered. -/
theorem test_ldVxK_completes : view (fun t => (t.reg 2, t.pc, t.dt, t.draws))
    (tickOn 0xF20A (press { atPc 0x206 [] with dt := 2 } [12])) = some (0x0C, 0x208, 1, 0) := by decide

/-- TM3. -/
theorem test_ldDtVx : view (fun t => t.dt) (tickOn 0xF015 (atPc 0x200 [(0, 3)])) = some 2 := by decide

/-- TM4. -/
theorem test_ldDtVx_zero : view (fun t => t.dt) (tickOn 0xF015 { atPc 0x200 [] with dt := 9 }) = some 0 := by decide

/-- TM6. -/
theorem test_ldStVx : view (fun t => (t.st, t.tone)) (tickOn 0xF518 (atPc 0x200 [(5, 4)])) = some (3, true) := by decide

/-- TM7: never sounds. -/
theorem test_ldStVx_one : view (fun t => (t.st, t.tone)) (tickOn 0xF518 (atPc 0x200 [(5, 1)])) = some (0, false) := by
  decide

/-- TM9, TM10. -/
theorem test_addI : view (fun t => (t.i, t.reg 15)) (tickOn 0xF11E { atPc 0x200 [(1, 1)] with i := 0x0FFF }) =
      some (0x1000, 0) ∧
    view (fun t => (t.i, t.reg 15)) (tickOn 0xF11E { atPc 0x200 [(1, 1)] with i := 0xFFFF }) = some (0, 0) := by decide

/-- TM13, TM15. -/
theorem test_ldF : view (fun t => t.i) (tickOn 0xF329 (atPc 0x200 [(3, 0x1A)])) = some 0x032 ∧
    view (fun t => t.i) (tickOn 0xF329 (atPc 0x200 [(3, 0xFF)])) = some 0x04B := by decide

/-- TM21: the last three bytes of memory. -/
theorem test_ldB : view (fun t => [t.byteAt 0xFFD, t.byteAt 0xFFE, t.byteAt 0xFFF])
    (tickOn 0xF233 { atPc 0x200 [(2, 123)] with i := 0xFFD }) = some [1, 2, 3] := by decide

/-- TM22. -/
theorem test_ldB_outside : faultOf (tickOn 0xF233 { atPc 0x200 [(2, 123)] with i := 0xFFE }) =
    some (.addressFault 0x1000) := by decide

/-- TM23: `X = 0` stores one byte; `I` is unchanged. -/
theorem test_ldMemVx : view (fun t => (t.byteAt 0x400, t.byteAt 0x401, t.i))
    (tickOn 0xF055 (poke { atPc 0x200 [(0, 0x11)] with i := 0x400 } 0x401 [0x99])) = some (0x11, 0x99, 0x400) := by decide

/-- TM25, TM26. -/
theorem test_ldMemVx_edge : faultOf (tickOn 0xFF55 { atPc 0x200 [] with i := 0xFF1 }) = some (.addressFault 0x1000) ∧
    faultOf (tickOn 0xFF55 { atPc 0x200 [] with i := 0xFF0 }) = none := by decide

/-- TM27: the register above `X` is kept. -/
theorem test_ldVxMem : view (fun t => (t.reg 0, t.reg 1, t.reg 2, t.reg 3, t.i))
    (tickOn 0xF265 (poke { atPc 0x200 [(3, 0x77)] with i := 0x400 } 0x400 [0x11, 0x22, 0x33])) =
    some (0x11, 0x22, 0x33, 0x77, 0x400) := by decide

/-- TM29. -/
theorem test_ldVxMem_outside : faultOf (tickOn 0xF165 { atPc 0x200 [] with i := 0xFFF }) =
    some (.addressFault 0x1000) := by decide

/-! ### The tick, the host (FT3 to FT7, S10, S12) -/

/-- FT3: alignment is checked first. -/
theorem test_fetch_odd_first : faultOf (step (atPc 0x1001 [])) = some (.misalignedPc 0x1001) := by decide

/-- FT5: a faulting tick runs no timer phase. -/
theorem test_faulting_tick_keeps_timers :
    (tick (({ atPc 0x200 [] with dt := 5, st := 5 } : State).placeWord 0x00EE)).state.dt = 5 := by decide

/-- FT7: under `mask`, `PC = 0x1000` fetches the font's first two bytes. -/
theorem test_fetch_mask : fetch .mask (atPc 0x1000 []) = .ok 0xF090 := by rfl

/-- R60: the last font byte, and R62: the byte after it. -/
theorem test_font_ends : State.reset.byteAt 79 = 0x80 ∧ State.reset.byteAt 80 = 0 := by decide

/-- R200: the numeric codes. -/
theorem test_fault_codes : [faultCode (.programTooLarge 0), faultCode (.unrecognizedInstruction 0),
    faultCode (.addressFault 0), faultCode (.stackOverflow 0), faultCode (.stackUnderflow 0),
    faultCode (.misalignedPc 0)] = [1, 2, 3, 4, 5, 6] := by decide

/-- A write of what an unlisted address reads as removes the entry. -/
theorem test_memory_canonical : Memory.write (Memory.write [] 0x300 7) 0x300 0 = [] ∧
    Memory.write [] 0 0xF0 = [] ∧ Memory.write [(0x301, 1)] 0x300 2 = [(0x300, 2), (0x301, 1)] := by decide

/-! ### Witnesses: hypotheses of the statements met by concrete states -/

/-- Every row of the opcode map is matched by a word, with operand fields 0 and with operand fields all ones. -/
theorem test_witness_DecodesAs : opcodeMap.all (fun r =>
    r.selects r.matchBits && r.selects (r.matchBits ||| ~~~r.maskBits)) = true := by decide

/-- A destination that is not the flag register, and the one that is (`AddWithCarry`, `SubtractBothOrderings`,
`ShiftsByOne`). -/
theorem test_witness_flag_destination : (14 : Reg) ≠ vf ∧ (15 : Reg) = vf := by decide

theorem test_witness_SkipsOnRegisters : fieldF 0x5121#16 = 0x5#4 ∧ fieldN 0x5121#16 ≠ 0x0#4 ∧
    fieldF 0x912F#16 = 0x9#4 ∧ fieldN 0x912F#16 ≠ 0x0#4 := by decide

theorem test_witness_SkipsOnKeys : (7 : Fin 16).val = ((atPc 0x200 [(4, 0x17)]).reg 4).toNat % 16 ∧
    (15 : Fin 16).val = ((atPc 0x200 [(4, 0xFF)]).reg 4).toNat % 16 := by decide

theorem test_witness_JumpSetsPc : (0x201 : Lit12).toNat % 2 = 1 := by decide

theorem test_witness_CallPushesAndJumps : (withSp State.reset 15).sp.val < 16 ∧ (withSp State.reset 16).sp.val = 16 := by
  decide

theorem test_witness_ReturnPops : 0 < (withSp State.reset 1).sp.val ∧ (0 : Fin 16).val + 1 = (withSp State.reset 1).sp.val ∧
    0 < (withSp State.reset 16).sp.val ∧ (15 : Fin 16).val + 1 = (withSp State.reset 16).sp.val ∧
    State.reset.sp.val = 0 := by decide

/-- The sixteenth call, and a state with the stack it left but another `PC` (S5). -/
theorem test_witness_CallThenReturn : ∃ nnn s t u, exec (.call nnn) s = .next t ∧ u.stk = t.stk ∧ u.sp = t.sp ∧
    u.pc = 0x300 ∧ view (fun w => w.pc) (exec .ret u) = some 0x202 :=
  ⟨0x400, withSp (atPc 0x200 []) 15, _, { atPc 0x300 [] with stk := State.reset.stk.set 15 0x202, sp := 16 }, rfl, rfl, rfl,
    rfl, by decide⟩

/-- Next states of a taken skip, a return, a waiting and a completing key wait, and an indexed jump. -/
theorem test_witness_PcDiscipline : (∃ t, exec (.seImm 0 0) State.reset = .next t) ∧
    (∃ t, exec .ret (withSp State.reset 1) = .next t) ∧ (∃ t, exec (.ldVxK 0) State.reset = .next t) ∧
    (∃ t, exec (.ldVxK 0) (press State.reset [5]) = .next t) ∧ ∃ t, exec (.jpV0 0xFFF) State.reset = .next t :=
  ⟨⟨_, rfl⟩, ⟨_, rfl⟩, ⟨_, rfl⟩, ⟨_, rfl⟩, ⟨_, rfl⟩⟩

theorem test_witness_RandomMasked : (0x0F : Byte).getLsbD 7 = false := by decide

/-- The glyph of `0x1A` in a machine just constructed: its last row, at `0x36`, is that of glyph A. -/
theorem test_witness_FontGlyph : (∃ s0, construct [] = .next s0) ∧ 4 < 5 ∧
    Config.fontData[5 * ((0x1A : Byte).toNat % 16) + 4]? = some (State.reset.byteAt 0x36) := ⟨⟨_, rfl⟩, by decide, rfl⟩

/-- `N = 0` outside memory, the last byte of memory, one byte past it. -/
theorem test_witness_DrawSprite_bounds : ((0 = 0 ∨ 0x1000 + 0 ≤ Config.memSize) ∧ (1 = 0 ∨ 0xFFF + 1 ≤ Config.memSize)) ∧
    (1 ≤ 2 ∧ Config.memSize < 0xFFF + 2) ∧ (1 ≤ 1 ∧ Config.memSize < 0x1000 + 1) := by decide

/-- DR13, DR12, DR14: what those bounds do. -/
theorem test_witness_DrawSprite_outcomes : view (fun t => (t.reg 15, t.dirty))
      (tickOn 0xD120 { atPc 0x200 [(15, 1)] with i := 0x1000 }) = some (0, true) ∧
    faultOf (tickOn 0xD122 { atPc 0x200 [] with i := 0xFFF }) = some (.addressFault 0x1000) ∧
    faultOf (tickOn 0xD121 { atPc 0x200 [] with i := 0x1234 }) = some (.addressFault 0x1234) := by decide

/-- DR1: a state whose one-byte sprite `0xC0` at `(63, 31)` covers `(63, 31)` and, wrapped, `(0, 31)`. -/
def spriteState : State := poke { atPc 0x200 [(1, 63), (2, 31)] with i := 0x300 } 0x300 [0xC0]

theorem test_witness_DrawSprite_covers : SpriteCovers spriteState 63 31 1 (0, 31) :=
  ⟨0, 1, by decide, by decide, by decide, by decide, by decide⟩

theorem test_witness_DrawSprite_uncovered : ¬ SpriteCovers spriteState 63 31 1 (10, 31) := by
  rintro ⟨r, c, hr, hc, -, hx, -⟩
  have hx' : 10 = (63 + c) % 64 := hx
  omega

theorem spriteState_dark (p : Pixel) : spriteState.fb.pixel p = false := Screen.pixel_blank p

/-- A covered pixel that is lit (a collision), and, over the clear screen, none that is. -/
theorem test_witness_DrawSprite_collision :
    (∃ p, SpriteCovers { spriteState with fb := State.reset.fb.flip (0, 31) } 63 31 1 p ∧
      ({ spriteState with fb := State.reset.fb.flip (0, 31) } : State).fb.pixel p = true) ∧
    ¬ ∃ p, SpriteCovers spriteState 63 31 1 p ∧ spriteState.fb.pixel p = true := by
  refine ⟨⟨(0, 31), ⟨0, 1, by decide, by decide, by decide, by decide, by decide⟩, by decide⟩, ?_⟩
  rintro ⟨p, -, hp⟩
  simp [spriteState_dark p] at hp

/-- The state after the first draw, as far as the second draw looks at it (S6, DR2). -/
theorem test_witness_DoubleDrawRestores : ∃ t w, exec (.drw 1 2 1) spriteState = .next t ∧
    exec (.drw 1 2 1) t = .next w ∧ t.reg 1 = spriteState.reg 1 ∧ t.reg 2 = spriteState.reg 2 ∧ t.i = spriteState.i ∧
    (∀ r, r < 1 → t.byteAt (spriteState.i.toNat + r) = spriteState.byteAt (spriteState.i.toNat + r)) ∧
    (∃ p, SpriteCovers spriteState 63 31 1 p) ∧
    (∀ p, SpriteCovers spriteState 63 31 1 p → spriteState.fb.pixel p = false) :=
  ⟨_, _, rfl, rfl, by decide, by decide, rfl, fun _ _ => rfl, ⟨_, test_witness_DrawSprite_covers⟩,
    fun p _ => spriteState_dark p⟩

/-- No key, two keys, one key. -/
theorem test_witness_KeyWait : (∀ k : Fin 16, State.reset.key[k] = false) ∧
    (∃ k : Fin 16, (press State.reset [3, 9]).key[k] = true) ∧
    ∀ j : Fin 16, (press State.reset [15]).key[j] = true ↔ j = 15 := by decide

/-- KW5: with keys 3 and 9 pressed the key is one of them. -/
theorem test_pickKey : (press State.reset [3, 9]).pressedKeys = [3, 9] ∧
    pickKey .lowestPressed 0 3 [9] = 3 ∧ pickKey .anyPressed 0 3 [9] = 3 ∧ pickKey .anyPressed 1 3 [9] = 9 := by decide

theorem executes_of {s : State} {i : Instr} (op : Word) (h : fetch Config.addrPolicy s = .ok op)
    (hd : decode op = some i) : Executes s i := ⟨op, h, hd⟩

theorem test_witness_ReadDelayTimer : Executes (State.reset.withFetchWord 16 0xF307) (.ldVxDt 3) :=
  executes_of 0xF307 rfl rfl

theorem test_witness_SetTimers : Executes (State.reset.withFetchWord 16 0xF015) (.ldDtVx 0) ∧
    Executes (State.reset.withFetchWord 16 0xF518) (.ldStVx 5) := ⟨executes_of 0xF015 rfl rfl, executes_of 0xF518 rfl rfl⟩

theorem test_witness_TimerPhaseClosesTick : ∃ s t i u, step s = .next t ∧ Executes s i ∧ exec i s = .next u ∧ u.dt = 3 :=
  ⟨(atPc 0x200 [(0, 3)]).withFetchWord 16 0xF015, _, .ldDtVx 0, _, rfl, executes_of 0xF015 rfl rfl, rfl, rfl⟩

/-- S9: `DT = 5` and a `JP` to itself at `PC`. -/
def idle : State := ({ atPc 0x200 [] with dt := 5, st := 1 } : State).withFetchWord 16 0x1200

/-- S9: `DT` after 1 tick; `ST`, then at zero, stays there. -/
theorem test_timers_floor : view (fun t => t.dt) (runTicks 1 idle) = some 4 ∧
    view (fun t => (t.dt, t.st)) (runTicks 2 idle) = some (3, 0) := by decide

theorem test_witness_TimersCountTicks : (∃ t, runTicks 2 idle = .next t) ∧
    ∀ k u x, k < 2 → runTicks k idle = .next u → ¬ Executes u (.ldDtVx x) ∧ ¬ Executes u (.ldStVx x) := by
  refine ⟨⟨_, rfl⟩, ?_⟩
  intro k u x hk hu
  have key : ∀ v : State, fetch Config.addrPolicy v = .ok 0x1200 → ∀ i, Executes v i → i = .jp 0x200 := by
    rintro v hv i ⟨op, ho, hd⟩
    rw [hv] at ho
    cases ho
    exact (Option.some.inj hd).symm
  have hf : fetch Config.addrPolicy u = .ok 0x1200 := by
    match k, hk with
    | 0, _ => cases hu; rfl
    | 1, _ => cases hu; rfl
  exact ⟨fun h => (nomatch key u hf _ h), fun h => (nomatch key u hf _ h)⟩

/-- A machine that waits for a key: KW1. -/
def waiting : State := ({ atPc 0x206 [] with dt := 2, st := 2 } : State).withFetchWord 16 0xF20A

theorem test_witness_KeyWaitHolds : Waiting waiting ∧ ∃ u, setKey waiting 15 true = .next u :=
  ⟨⟨⟨2, executes_of 0xF20A rfl rfl⟩, by decide⟩, ⟨_, rfl⟩⟩

theorem test_witness_AudioFollowsSoundTimer : (∃ t, step idle = .next t) ∧
    ∃ f, step (atPc 0x201 []) = .fault f := ⟨⟨_, rfl⟩, ⟨_, rfl⟩⟩

/-- The tone: on at a non-zero sound timer after the tick, off at zero, no signal on a fault. -/
theorem test_audio : (tick ({ idle with st := 2 } : State)).audio = some .startTone ∧ (tick idle).audio = some .stopTone ∧
    (tick (atPc 0x201 [])).audio = none := by decide

theorem test_witness_DecimalDigits : ({ State.reset with i := 0xFFD } : State).i.toNat + 2 < Config.memSize ∧
    Config.memSize ≤ ({ State.reset with i := 0xFFE } : State).i.toNat + 2 := by decide

/-- `StoreRegisters`, `LoadRegisters`: the last byte of memory and the one past it, for `X = 0` and for `X = 15`. -/
theorem test_witness_registers_bounds : 0xFFF + (0 : Reg).val < Config.memSize ∧ 0xFF0 + (15 : Reg).val < Config.memSize ∧
    Config.memSize ≤ 0x1000 + (0 : Reg).val ∧ Config.memSize ≤ 0xFF1 + (15 : Reg).val := by decide

/-- S7: dumped, then every register overwritten, the bytes untouched. -/
theorem test_witness_DumpLoadRoundTrip : ∃ s t u : State, exec (.ldMemVx 2) s = .next t ∧ u.i = s.i ∧
    (∀ k, k ≤ (2 : Reg).val → u.byteAt (s.i.toNat + k) = t.byteAt (s.i.toNat + k)) ∧ u.reg 1 ≠ s.reg 1 :=
  ⟨{ atPc 0x200 [(0, 0x11), (1, 0x22), (2, 0x33)] with i := 0x400 }, _,
    { atPc 0x208 [] with i := 0x400, mem := [(0x400, 0x11), (0x401, 0x22), (0x402, 0x33)] }, rfl, rfl, by decide, by decide⟩

theorem test_witness_StoreThenFetch : ∃ s t u : State, exec (.ldMemVx 1) s = .next t ∧ 1 ≤ (1 : Reg).val ∧ s.i.toNat % 2 = 0 ∧
    u.pc = s.i ∧ u.mem = t.mem :=
  ⟨{ atPc 0x200 [(0, 0x60), (1, 0x05)] with i := 0x202 }, _,
    { atPc 0x202 [] with mem := [(0x202, 0x60), (0x203, 0x05)] }, rfl, by decide, by decide, rfl, by decide⟩

/-- Under `mask` a store of two bytes from `0xFFF` wraps; under `fault` one byte there is let through, and a fetch is. -/
theorem test_witness_AddressPolicies : [7, 8].length ≤ Config.memSize ∧ State.reset.pc.toNat % 2 = 0 ∧
    (∃ bytes, ({ State.reset with i := 0xFFF } : State).readFromI .fault 1 = .ok bytes) ∧
    (∃ t, ({ State.reset with i := 0xFFF } : State).storeAtI .fault [7] = .ok t) ∧
    ∃ op, fetch .fault State.reset = .ok op := ⟨by decide, by decide, ⟨_, rfl⟩, ⟨_, rfl⟩, ⟨_, rfl⟩⟩

theorem test_mask_wraps : (({ State.reset with i := 0xFFF } : State).storeAtI .mask [7, 8]).toOption.map
    (fun t => (t.byteAt 0xFFF, t.byteAt 0)) = some (7, 8) := by decide

theorem test_witness_CanonicalMemoryIsUnique : Memory.wf [(0x300, 1), (0xFFF, 2)] = true := by decide

theorem test_witness_FetchIsBigEndian : fetch Config.addrPolicy (poke State.reset 0x200 [0x60, 0x05]) = .ok 0x6005 := by rfl

/-- At the last word of memory, an instruction that completes and one that faults (FT4). -/
theorem test_witness_StepRunsDecoded :
    (∃ s i t, s.pc.toNat % 2 = 0 ∧ s.pc.toNat < Config.memSize ∧ decode (wordAtPc s) = some i ∧ exec i s = .next t) ∧
    ∃ s i f, s.pc.toNat % 2 = 0 ∧ s.pc.toNat < Config.memSize ∧ decode (wordAtPc s) = some i ∧ exec i s = .fault f :=
  ⟨⟨(atPc 0xFFE []).withFetchWord 16 0x6005, .ldImm 0 5, _, by decide, by decide, by decide, rfl⟩,
    ⟨(atPc 0xFFE []).withFetchWord 16 0x00EE, .ret, _, by decide, by decide, by decide, rfl⟩⟩

/-- No listed fault, and a listed fault of each instruction that has one. -/
theorem test_witness_FaultsExactlyWhereListed : execFault (.call 0) State.reset = none ∧
    execFault (.call 0) (withSp State.reset 16) = some (.stackOverflow 0x200) ∧
    execFault .ret State.reset = some (.stackUnderflow 0x200) ∧
    execFault (.drw 0 0 2) { State.reset with i := 0xFFF } = some (.addressFault 0x1000) ∧
    execFault (.ldB 0) { State.reset with i := 0xFFE } = some (.addressFault 0x1000) ∧
    execFault (.ldMemVx 15) { State.reset with i := 0xFF1 } = some (.addressFault 0x1000) ∧
    execFault (.ldVxMem 0) { State.reset with i := 0xFFFF } = some (.addressFault 0xFFFF) := by decide

/-- Each kind of fault a tick raises, and a tick with none. -/
theorem test_witness_FaultPriority : stepFault (atPc 0x1001 []) = some (.misalignedPc 0x1001) ∧
    stepFault (atPc 0x1000 []) = some (.addressFault 0x1000) ∧
    stepFault State.reset = some (.unrecognizedInstruction 0) ∧
    stepFault (State.reset.withFetchWord 16 0x00EE) = some (.stackUnderflow 0x200) ∧ stepFault idle = none := by decide

theorem test_witness_UnrecognizedWordFaults :
    fetch Config.addrPolicy (State.reset.withFetchWord 16 0xFFFF) = .ok 0xFFFF#16 ∧
    step State.reset = .fault (.unrecognizedInstruction 0) := ⟨rfl, rfl⟩

theorem test_witness_FaultingTickChangesNothing : ∃ f, step ({ atPc 0x1001 [] with dt := 5 } : State) = .fault f := ⟨_, rfl⟩

/-- A flag writer that is an ALU form, and the draw. -/
theorem test_witness_RegisterWriters : (∃ t, exec (.shl 1 2) State.reset = .next t) ∧
    (∃ t, exec (.drw 1 2 1) spriteState = .next t) ∧ (3 : Reg) ∉ destRegs (.ldVxMem 2) ∧ (2 : Reg) ∈ destRegs (.ldVxMem 2) :=
  ⟨⟨_, rfl⟩, ⟨_, rfl⟩, by decide, by decide⟩

theorem test_witness_OnlyStoresWriteMemory : ∃ t, step (({ atPc 0x200 [(2, 199)] with i := 0x300 } : State).withFetchWord 16 0xF233) =
    .next t ∧ t.byteAt 0x302 ≠ (({ atPc 0x200 [(2, 199)] with i := 0x300 } : State).withFetchWord 16 0xF233).byteAt 0x302 :=
  ⟨_, rfl, by decide⟩

/-- Each piece of state of the statement, changed by an instruction. -/
theorem test_witness_ControlStateWriters :
    view (fun t => decide (t.stk ≠ State.reset.stk ∧ t.sp ≠ State.reset.sp)) (exec (.call 0x300) State.reset) = some true ∧
    view (fun t => decide (t.sp ≠ 16)) (exec .ret (withSp State.reset 16)) = some true ∧
    view (fun t => decide (t.dt ≠ 0)) (exec (.ldDtVx 0) (atPc 0x200 [(0, 3)])) = some true ∧
    view (fun t => decide (t.st ≠ 0)) (exec (.ldStVx 0) (atPc 0x200 [(0, 3)])) = some true ∧
    view (fun t => decide (t.fb ≠ spriteState.fb ∧ t.dirty ≠ spriteState.dirty)) (exec (.drw 1 2 1) spriteState) = some true ∧
    view (fun t => decide (t.i ≠ State.reset.i)) (exec (.ldI 1) State.reset) = some true := by decide

/-- Two states that differ in `DIRTY` and `ST`, at a tick that completes and at one that faults. -/
theorem test_witness_DirtyAndSoundAreInvisible :
    (∃ u t, SameButSilent idle u ∧ u.dirty ≠ idle.dirty ∧ u.st ≠ idle.st ∧ step idle = .next t) ∧
    ∃ u f, SameButSilent State.reset u ∧ u.st ≠ State.reset.st ∧ step State.reset = .fault f :=
  ⟨⟨{ idle with dirty := true, st := 9 }, _, rfl, by decide, by decide, rfl⟩,
    ⟨{ State.reset with dirty := true, st := 9 }, _, rfl, by decide, rfl⟩⟩

/-- The invariant at reset, and in a state with a return address in use and `PC` at its largest. -/
theorem test_witness_CoreInv : CoreInv State.reset ∧
    CoreInv { withSp (atPc 0x10FE []) 1 with stk := State.reset.stk.set 0 0x1000 } := by
  refine ⟨⟨by decide, by decide, by decide⟩, ⟨by decide, by decide, by decide⟩⟩

theorem test_witness_OddPcOnlyByJumps : ∃ s t, CoreInv s ∧ step s = .next t ∧ t.pc.toNat % 2 = 1 :=
  ⟨State.reset.withFetchWord 16 0x1201, _, ⟨by decide, by decide, by decide⟩, rfl, by decide⟩

theorem test_witness_HaltIdiomHolds : Halted idle := rfl

/-- A program of 3584 bytes fits, one of 3585 does not (S12). -/
theorem test_witness_program_sizes : (List.replicate 3584 (0 : Byte)).length ≤ Config.memSize - Config.progBase ∧
    Config.memSize - Config.progBase < (List.replicate 3585 (0 : Byte)).length :=
  ⟨by rw [List.length_replicate]; decide, by rw [List.length_replicate]; decide⟩

/-- S11: the source's program, its bytes and the rest of memory. -/
theorem test_construct : view (fun s => (s.byteAt 0x200, s.byteAt 0x203, s.byteAt 0x206, s.byteAt 0, s.pc))
    (construct [0x60, 0x05, 0xF0, 0x1E, 0x00, 0x00]) = some (0x60, 0x1E, 0, 0xF0, 0x200) := by decide

theorem test_witness_SetKeyWritesOneLatch : (15 < 16 ∧ 16 ≤ 16) ∧ (∃ u, setKey State.reset 15 true = .next u) ∧
    setKey State.reset 16 true = .refused (.keyIndexOutOfRange 16) := ⟨by decide, ⟨_, rfl⟩, rfl⟩

theorem test_witness_TakeDirtyFlagClears : ({ State.reset with dirty := true } : State).dirty = true ∧
    (applyOp { State.reset with dirty := true } .takeDirtyFlag).dirty = false := ⟨rfl, rfl⟩

theorem test_witness_ConstructEstablishesInv : ∃ s, construct [0x60, 0x05] = .next s := ⟨_, rfl⟩

/-- A state that satisfies the invariant and a tick from it: a call. -/
theorem test_witness_StepKeepsInv : ∃ s t, CoreInv s ∧ step s = .next t ∧ t.sp = 1 :=
  ⟨State.reset.withFetchWord 16 0x2300, _, ⟨by decide, by decide, by decide⟩, rfl, rfl⟩

/-- A session: the source's program of S11, a key pushed, two ticks, the flag read. -/
theorem test_witness_SessionKeepsInv : ∃ s, Reachable s ∧ s.i = 5 ∧ s.pc = 0x204 :=
  ⟨_, ⟨[0x60, 0x05, 0xF0, 0x1E], [.setKey 3 true, .tick, .tick, .takeDirtyFlag], _, rfl, rfl⟩, by decide, by decide⟩

theorem test_witness_DecodeEncode : (Instr.drw 15 15 15).WellFormed = true ∧ encode (.drw 15 15 15) = 0xDFFF := by decide

theorem test_witness_EncodeDecode : decode 0xF065#16 = some (.ldVxMem 0) := by decide

theorem test_witness_DecodeFollowsOpcodeMap : decode 0x810E#16 = some (.shl 1 0) ∧
    (∀ r ∈ opcodeMap, 0x8008#16 &&& r.maskBits ≠ r.matchBits) := by decide

end Sys2Proof.Tests
end

section
/-! PROOFS. The byte order of the fetch (R53): a word is its first byte followed by its second. -/

namespace Sys2Proof

/-- The word of two bytes is their concatenation (R53). -/
theorem wordOfBytes_eq_append (hi lo : Byte) : wordOfBytes hi lo = hi ++ lo := by
  rw [wordOfBytes, ← BitVec.setWidth_append_eq_shiftLeft_setWidth_or, BitVec.setWidth_eq]

theorem toNat_wordOfBytes (hi lo : Byte) : (wordOfBytes hi lo).toNat = hi.toNat * 256 + lo.toNat := by
  rw [wordOfBytes_eq_append, BitVec.toNat_append, ← Nat.shiftLeft_add_eq_or_of_lt lo.isLt, Nat.shiftLeft_eq]

@[simp] theorem highByte_wordOfBytes (hi lo : Byte) : highByte (wordOfBytes hi lo) = hi := by
  rw [wordOfBytes_eq_append]
  exact BitVec.extractLsb'_append_eq_left

@[simp] theorem lowByte_wordOfBytes (hi lo : Byte) : lowByte (wordOfBytes hi lo) = lo := by
  rw [wordOfBytes_eq_append]
  exact BitVec.extractLsb'_append_eq_right

end Sys2Proof

open Sys2Proof Sys2Proof.Machine

/-- Settles O37: a fetched word is `wordOfBytes` of the bytes at `PC` and `PC + 1`, whose value and halves are known. -/
theorem fetchIsBigEndian : Obligations.FetchIsBigEndian := by
  refine ⟨fun s op hfetch => ?_, by decide⟩
  obtain ⟨-, -, rfl⟩ := (fetch_eq_ok s op).mp hfetch
  exact ⟨toNat_wordOfBytes _ _, highByte_wordOfBytes _ _, lowByte_wordOfBytes _ _⟩

end

section
/-! PROOFS. The immediate load (R140): the rows matched on their family nibble alone, and what `V[X] := b; PC := PC + 2`
leaves unchanged. -/

namespace Sys2Proof.Machine

/-- A row of mask `0xF000` decodes as `f` when the decoder answers `f` on every word of the row's family. -/
theorem decodesAs_of_family (m : Word) (f : Word → Instr) (hm : m &&& 0xF000#16 = m)
    (hdecode : ∀ op, fieldF op = fieldF m → decode op = some (f op)) : DecodesAs m 0xF000#16 f :=
  fun op hop => hdecode op ((maskF_iff op m hm).mp hop)

theorem decode_of_family_six (op : Word) (h : fieldF op = 0x6#4) : decode op = some (.ldImm (regX op) (fieldNN op)) := by
  simp only [decode, h]

/-- Writing one register and going on to the next instruction touches that register and `PC` alone. -/
theorem frame_setReg_nextPc (s : State) (x : Reg) (b : Byte) : Frame [x] [] s (s.setReg x b).nextPc := by
  constructor
  · intro r hr
    have hne : r ≠ x := by simpa using hr
    simp [hne]
  · intro p _
    cases p <;> simp [Part.same]

theorem exec_ldImm (x : Reg) (nn : Byte) (s : State) : exec (.ldImm x nn) s = .next (s.setReg x nn).nextPc := rfl

end Sys2Proof.Machine

open Sys2Proof Sys2Proof.Machine

/-- Settles O1: family 6 decodes to the load, and the load is one register write followed by `PC + 2`. -/
theorem loadImmediate : Obligations.LoadImmediate := by
  refine ⟨decodesAs_of_family _ _ (by decide) decode_of_family_six, fun x nn s => ?_⟩
  have hreg : (s.setReg x nn).nextPc.reg x = nn := by simp
  exact ⟨_, exec_ldImm x nn s, hreg, State.nextPc_pc _, frame_setReg_nextPc s x nn⟩

end

section
/-! PROOFS. The index load (R170): what `I := w; PC := PC + 2` leaves unchanged. -/

namespace Sys2Proof.Machine

theorem decode_of_family_ten (op : Word) (h : fieldF op = 0xA#4) : decode op = some (.ldI (fieldNNN op)) := by
  simp only [decode, h]

/-- Writing `I` and going on to the next instruction touches `I` and `PC` alone. -/
theorem frame_setI_nextPc (s : State) (w : Word) : Frame [] [.i] s (s.setI w).nextPc := by
  constructor
  · intro r _
    simp
  · intro p hp
    cases p with
    | i => exact absurd (List.mem_singleton_self _) hp
    | _ => simp [Part.same]

theorem exec_ldI (nnn : Lit12) (s : State) : exec (.ldI nnn) s = .next (s.setI (literal nnn)).nextPc := rfl

end Sys2Proof.Machine

open Sys2Proof Sys2Proof.Machine

/-- Settles O16: family A decodes to the index load, and the load is one write of `I` followed by `PC + 2`. -/
theorem loadIndex : Obligations.LoadIndex := by
  refine ⟨decodesAs_of_family _ _ (by decide) decode_of_family_ten, fun nnn s => ?_⟩
  have hi : (s.setI (literal nnn)).nextPc.i.toNat = nnn.toNat := by simp
  exact ⟨_, exec_ldI nnn s, hi, State.nextPc_pc _, frame_setI_nextPc s (literal nnn)⟩

end

section
/-! PROOFS. Unrecognized words (R88, R202): the decoder answers nothing exactly where no row of the opcode map matches,
and what the fetch and the execute phase raise is never code 1 or 2 of R200. -/

namespace Sys2Proof

/-- Mask `0xFFFF`, by fields: family and 12-bit literal. -/
theorem maskAll_iff_fields (op m : Word) :
    op &&& 0xFFFF#16 = m ↔ fieldF op = fieldF m ∧ fieldNNN op = fieldNNN m := by
  rw [maskAll_iff]
  constructor
  · rintro rfl
    exact ⟨rfl, rfl⟩
  · rintro ⟨hf, hnnn⟩
    rw [← packNNN_fields op, hf, hnnn, packNNN_fields]

/-! The sub-opcodes each dispatching family leaves unassigned (R86). -/

theorem decodeSys_eq_none (op : Word) : decodeSys op = none ↔ fieldNNN op ∉ [0x0E0#12, 0x0EE#12] := by
  unfold decodeSys
  split <;> simp_all

theorem decodeSeReg_eq_none (op : Word) : decodeSeReg op = none ↔ fieldN op ≠ 0x0#4 := by
  unfold decodeSeReg
  split <;> simp_all

theorem decodeAlu_eq_none (op : Word) :
    decodeAlu op = none ↔ fieldN op ∉ [0x0#4, 0x1#4, 0x2#4, 0x3#4, 0x4#4, 0x5#4, 0x6#4, 0x7#4, 0xE#4] := by
  unfold decodeAlu
  split <;> simp_all

theorem decodeSneReg_eq_none (op : Word) : decodeSneReg op = none ↔ fieldN op ≠ 0x0#4 := by
  unfold decodeSneReg
  split <;> simp_all

theorem decodeKey_eq_none (op : Word) : decodeKey op = none ↔ fieldNN op ∉ [0x9E#8, 0xA1#8] := by
  unfold decodeKey
  split <;> simp_all

theorem decodeMisc_eq_none (op : Word) :
    decodeMisc op = none ↔
      fieldNN op ∉ [0x07#8, 0x0A#8, 0x15#8, 0x18#8, 0x1E#8, 0x29#8, 0x33#8, 0x55#8, 0x65#8] := by
  unfold decodeMisc
  split <;> simp_all

/-! The fields of a word written as a number (R81). -/

theorem fieldF_ofNat (n : Nat) : fieldF (BitVec.ofNat 16 n) = BitVec.ofNat 4 (n / 4096) := by
  apply BitVec.eq_of_toNat_eq
  simp [fieldF, Nat.shiftRight_eq_div_pow]
  omega

theorem fieldN_ofNat (n : Nat) : fieldN (BitVec.ofNat 16 n) = BitVec.ofNat 4 n := by
  apply BitVec.eq_of_toNat_eq
  simp [fieldN]

theorem fieldNN_ofNat (n : Nat) : fieldNN (BitVec.ofNat 16 n) = BitVec.ofNat 8 n := by
  apply BitVec.eq_of_toNat_eq
  simp [fieldNN]

theorem fieldNNN_ofNat (n : Nat) : fieldNNN (BitVec.ofNat 16 n) = BitVec.ofNat 12 n := by
  apply BitVec.eq_of_toNat_eq
  simp [fieldNNN]

/-- R88. Every row is a condition on the family and at most one more field; the families are then compared one by one,
each with the sub-opcodes it leaves unassigned. -/
theorem decode_eq_none_iff (op : Word) :
    decode op = none ↔ ∀ r ∈ opcodeMap, op &&& r.maskBits ≠ r.matchBits := by
  simp (disch := decide) only [opcodeMap, rowOf, List.map_cons, List.map_nil, List.cons_append, List.nil_append,
    List.forall_mem_cons, List.not_mem_nil, false_implies, implies_true, and_true, ne_eq,
    maskF_iff, maskFN_iff, maskFNN_iff, maskAll_iff_fields,
    fieldF_ofNat, fieldN_ofNat, fieldNN_ofNat, fieldNNN_ofNat, Nat.reduceDiv, BitVec.reduceOfNat]
  unfold decode
  split <;> simp_all [decodeSys_eq_none, decodeSeReg_eq_none, decodeAlu_eq_none, decodeSneReg_eq_none,
    decodeKey_eq_none, decodeMisc_eq_none]

end Sys2Proof

namespace Sys2Proof.Machine

theorem deliver_map_eq_next {α : Type} (e : Except Fault α) (g : α → State) (t : State) :
    deliver (e.map g) = .next t ↔ ∃ a, e = .ok a ∧ t = g a := by
  cases e <;> simp [Except.map, eq_comm]

theorem deliver_map_eq_fault {α : Type} (e : Except Fault α) (g : α → State) (f : Fault) :
    deliver (e.map g) = .fault f ↔ e = .error f := by
  cases e <;> simp [Except.map]

/-! ### The fault codes of the phases (R200): fetch and execute raise codes 3 to 6 only -/

theorem fetch_error_code (s : State) (f : Fault) (h : fetch Config.addrPolicy s = .error f) : 3 ≤ faultCode f := by
  rw [fetch_cases] at h
  split at h
  · cases h; simp [faultCode]
  · split at h
    · cases h; simp [faultCode]
    · cases h

theorem State.pushReturn_error_code (s : State) (f : Fault) (h : s.pushReturn = .error f) : 3 ≤ faultCode f := by
  obtain ⟨_, hpush⟩ | ⟨_, hpush⟩ := s.pushReturn_cases
  · rw [hpush] at h; cases h
  · rw [hpush] at h; cases h; simp [faultCode]

theorem State.popReturn_error_code (s : State) (f : Fault) (h : s.popReturn = .error f) : 3 ≤ faultCode f := by
  obtain ⟨_, hpop⟩ | ⟨_, hpop⟩ := s.popReturn_cases
  · rw [hpop] at h; cases h
  · rw [hpop] at h; cases h; simp [faultCode]

theorem State.readFromI_error_code (s : State) (n : Nat) (f : Fault) (h : s.readFromI Config.addrPolicy n = .error f) :
    3 ≤ faultCode f := by
  rw [State.readFromI_cases] at h
  split at h
  · cases h
  · cases h; simp [faultCode]

theorem State.storeAtI_error_code (s : State) (bytes : List Byte) (f : Fault)
    (h : s.storeAtI Config.addrPolicy bytes = .error f) : 3 ≤ faultCode f := by
  rw [State.storeAtI_cases] at h
  split at h
  · cases h
  · cases h; simp [faultCode]

/-- FX0A completes whatever keys are pressed, and leaves the dirty flag alone. -/
theorem exec_ldVxK_completes (x : Reg) (s : State) : ∃ t, exec (.ldVxK x) s = .next t ∧ t.dirty = s.dirty := by
  change ∃ t, execLdVxK x s = .next t ∧ t.dirty = s.dirty
  unfold execLdVxK
  split <;> exact ⟨_, rfl, rfl⟩

/-- Only a call, a return and the accesses through `I` can fault, each with the fault of the operation it delivers; every
other instruction completes. -/
theorem exec_fault_code (i : Instr) (s : State) (f : Fault) (h : exec i s = .fault f) : 3 ≤ faultCode f := by
  cases i with
  | call nnn => exact s.pushReturn_error_code f ((deliver_map_eq_fault _ _ f).mp h)
  | ret => exact s.popReturn_error_code f ((deliver_eq_fault _ f).mp h)
  | drw x y n => exact s.readFromI_error_code n f ((deliver_map_eq_fault _ _ f).mp h)
  | ldB x => exact s.storeAtI_error_code _ f ((deliver_map_eq_fault _ _ f).mp h)
  | ldMemVx x => exact s.storeAtI_error_code _ f ((deliver_map_eq_fault _ _ f).mp h)
  | ldVxMem x => exact s.readFromI_error_code _ f ((deliver_map_eq_fault _ _ f).mp h)
  | ldVxK x =>
    obtain ⟨t, hnext, -⟩ := exec_ldVxK_completes x s
    rw [hnext] at h
    cases h
  | _ => cases h

/-! ### What a tick can answer (R101, R107) -/

/-- The three phases a fault can come from. -/
theorem step_eq_fault (s : State) (f : Fault) :
    step s = .fault f ↔ fetch Config.addrPolicy s = .error f ∨
      (∃ op, fetch Config.addrPolicy s = .ok op ∧ decode op = none ∧ f = .unrecognizedInstruction op) ∨
      ∃ i, Executes s i ∧ exec i s = .fault f := by
  cases hfetch : fetch Config.addrPolicy s with
  | error g => simp [step, Executes, hfetch]
  | ok op =>
    cases hdecode : decode op with
    | none => simp [step, Executes, hfetch, hdecode, eq_comm]
    | some i => simp [step, Executes, hfetch, hdecode, endTick_eq_fault]

theorem tick_of_fault (s : State) (f : Fault) (h : step s = .fault f) : tick s = ⟨s, some f, none⟩ := by
  simp [tick, h]

theorem step_eq_unrecognized (s : State) (op : Word) :
    step s = .fault (.unrecognizedInstruction op) ↔ fetch Config.addrPolicy s = .ok op ∧ decode op = none := by
  have hcode : ¬ 3 ≤ faultCode (.unrecognizedInstruction op) := by simp [faultCode]
  rw [step_eq_fault]
  constructor
  · rintro (hfetch | ⟨op', hfetch, hnone, hop⟩ | ⟨i, -, hexec⟩)
    · exact absurd (fetch_error_code s _ hfetch) hcode
    · cases hop
      exact ⟨hfetch, hnone⟩
    · exact absurd (exec_fault_code i s _ hexec) hcode
  · rintro ⟨hfetch, hnone⟩
    exact .inr (.inl ⟨op, hfetch, hnone, rfl⟩)

end Sys2Proof.Machine

open Sys2Proof Sys2Proof.Machine

/-- Settles O41: of the phases only the decode raises code 2, on exactly the words no row of the opcode map matches. -/
theorem unrecognizedWordFaults : Obligations.UnrecognizedWordFaults := by
  refine ⟨fun s op => ?_, fun s op hstep => ?_, fun s hfetch => ?_⟩
  · rw [step_eq_unrecognized, decode_eq_none_iff]
  · rw [tick_of_fault s _ hstep]
  · have hnone : decode 0xFFFF#16 = none := by decide
    exact (step_eq_unrecognized s _).mpr ⟨hfetch, hnone⟩

end

section
/-! PROOFS. Construction (R65, R201): it faults on length alone, and no tick raises its fault. -/

namespace Sys2Proof.Machine

theorem construct_of_tooLarge (program : List Byte) (h : Config.memSize - Config.progBase < program.length) :
    construct program = .fault (.programTooLarge program.length) := if_pos h

theorem construct_of_fits (program : List Byte) (h : program.length ≤ Config.memSize - Config.progBase) :
    construct program = .next (State.reset.setMem (Memory.load State.reset.mem Config.progBase program)) :=
  if_neg (Nat.not_lt.mpr h)

/-- A tick raises codes 2 to 6 only (R200): code 1 belongs to construction. -/
theorem step_fault_code (s : State) (f : Fault) (h : step s = .fault f) : 2 ≤ faultCode f := by
  rcases (step_eq_fault s f).mp h with hfetch | ⟨op, -, -, rfl⟩ | ⟨i, -, hexec⟩
  · exact Nat.le_of_succ_le (fetch_error_code s f hfetch)
  · exact Nat.le_refl 2
  · exact Nat.le_of_succ_le (exec_fault_code i s f hexec)

end Sys2Proof.Machine

open Sys2Proof Sys2Proof.Machine

/-- Settles O49: a program that fits gives a machine, a longer one the fault with its length. -/
theorem tooLargeProgramRefused : Obligations.TooLargeProgramRefused := by
  refine ⟨fun program n => ?_, fun program hlarge s hnext => ?_, fun s n hstep => ?_⟩
  · rcases Nat.lt_or_ge (Config.memSize - Config.progBase) program.length with hlarge | hfits
    · simp [construct_of_tooLarge program hlarge, hlarge, eq_comm]
    · simp [construct_of_fits program hfits, Nat.not_lt.mpr hfits]
  · rw [construct_of_tooLarge program hlarge] at hnext
    cases hnext
  · have hcode : 2 ≤ 1 := step_fault_code s _ hstep
    exact absurd hcode (by decide)

end

section
/-! PROOFS. The key latch (R222) and the dirty flag (R219): what the host operations leave unchanged. -/

namespace Sys2Proof.Machine

theorem setKey_of_lt (s : State) (i : Nat) (p : Bool) (h : i < 16) :
    setKey s i p = .next { s with key := s.key.set i p } := dif_pos h

theorem setKey_of_ge (s : State) (i : Nat) (p : Bool) (h : 16 ≤ i) :
    setKey s i p = .refused (.keyIndexOutOfRange i) := dif_neg (Nat.not_lt.mpr h)

/-- The last of two pushes for one key counts. -/
theorem setKey_setKey (s u : State) (i : Nat) (q p : Bool) (h : setKey s i q = .next u) :
    setKey u i p = setKey s i p := by
  rcases Nat.lt_or_ge i 16 with hi | hi
  · rw [setKey_of_lt s i q hi] at h
    cases h
    simp [setKey_of_lt, hi]
  · rw [setKey_of_ge s i q hi] at h
    cases h

@[simp] theorem applyOp_setKey_dirty (s : State) (i : Nat) (p : Bool) : (applyOp s (.setKey i p)).dirty = s.dirty := by
  rcases Nat.lt_or_ge i 16 with hi | hi
  · simp [applyOp, setKey_of_lt s i p hi]
  · simp [applyOp, setKey_of_ge s i p hi]

/-! ### No instruction and no tick clears the dirty flag -/

theorem State.pushReturn_dirty (s t : State) (h : s.pushReturn = .ok t) : t.dirty = s.dirty := by
  obtain ⟨_, hpush⟩ | ⟨_, hpush⟩ := s.pushReturn_cases
  · rw [hpush] at h; cases h; rfl
  · rw [hpush] at h; cases h

theorem State.popReturn_dirty (s t : State) (h : s.popReturn = .ok t) : t.dirty = s.dirty := by
  obtain ⟨_, hpop⟩ | ⟨_, hpop⟩ := s.popReturn_cases
  · rw [hpop] at h; cases h; rfl
  · rw [hpop] at h; cases h

theorem State.storeAtI_dirty (s t : State) (bytes : List Byte) (h : s.storeAtI Config.addrPolicy bytes = .ok t) :
    t.dirty = s.dirty := by
  rw [State.storeAtI_cases] at h
  split at h
  · cases h; rfl
  · cases h

/-- A clear and a draw set the flag, every other instruction leaves it (R34). -/
theorem exec_keeps_dirty (i : Instr) (s t : State) (h : exec i s = .next t) (hd : s.dirty = true) : t.dirty = true := by
  cases i with
  | cls => cases h; rfl
  | drw x y n =>
    obtain ⟨rows, -, rfl⟩ := (deliver_map_eq_next _ _ t).mp h
    rfl
  | call nnn =>
    obtain ⟨u, hpush, rfl⟩ := (deliver_map_eq_next _ _ t).mp h
    exact (s.pushReturn_dirty u hpush).trans hd
  | ret => exact (s.popReturn_dirty t ((deliver_eq_next _ t).mp h)).trans hd
  | ldB x =>
    obtain ⟨u, hstore, rfl⟩ := (deliver_map_eq_next _ _ t).mp h
    exact (s.storeAtI_dirty u _ hstore).trans hd
  | ldMemVx x =>
    obtain ⟨u, hstore, rfl⟩ := (deliver_map_eq_next _ _ t).mp h
    exact (s.storeAtI_dirty u _ hstore).trans hd
  | ldVxMem x =>
    obtain ⟨bytes, -, rfl⟩ := (deliver_map_eq_next _ _ t).mp h
    simpa using hd
  | ldVxK x =>
    obtain ⟨u, hnext, hdirty⟩ := exec_ldVxK_completes x s
    rw [hnext] at h
    cases h
    exact hdirty.trans hd
  | _ => cases h; simpa using hd

/-- A tick that completes is an execution followed by the timer phase. -/
theorem step_eq_next (s t : State) :
    step s = .next t ↔ ∃ i u, Executes s i ∧ exec i s = .next u ∧ t = u.timerPhase := by
  cases hfetch : fetch Config.addrPolicy s with
  | error f => simp [step, Executes, hfetch]
  | ok op =>
    cases hdecode : decode op with
    | none => simp [step, Executes, hfetch, hdecode]
    | some i => simp [step, Executes, hfetch, hdecode, endTick_eq_next]

theorem tick_keeps_dirty (s : State) (hd : s.dirty = true) : (tick s).state.dirty = true := by
  cases hstep : step s with
  | next t =>
    obtain ⟨i, u, -, hexec, rfl⟩ := (step_eq_next s t).mp hstep
    simpa [tick, hstep] using exec_keeps_dirty i s u hexec hd
  | fault f => simpa [tick, hstep] using hd
  | refused r => simpa [tick, hstep] using hd

end Sys2Proof.Machine

open Sys2Proof Sys2Proof.Machine

/-- Settles O51: the two branches of `setKey`, and the overwrite of one latch entry. -/
theorem setKeyWritesOneLatch : Obligations.SetKeyWritesOneLatch := by
  refine fun s i p => ⟨fun hi => ⟨_, setKey_of_lt s i p hi, fun k => ?_, rfl⟩,
    fun q u hset => setKey_setKey s u i q p hset, setKey_of_ge s i p⟩
  simp [Vector.getElem_set, eq_comm]

/-- Settles O52: of the host operations a tick and a key push keep a set flag, and a snapshot changes nothing. -/
theorem takeDirtyFlagClears : Obligations.TakeDirtyFlagClears := by
  refine fun s => ⟨rfl, rfl, rfl, fun op hset hclear => ?_⟩
  cases op with
  | takeDirtyFlag => rfl
  | tick =>
    have hkept : (applyOp s .tick).dirty = true := tick_keeps_dirty s hset
    rw [hclear] at hkept
    cases hkept
  | setKey i p =>
    rw [applyOp_setKey_dirty, hset] at hclear
    cases hclear
  | snapshot =>
    have hkept : s.dirty = false := hclear
    rw [hset] at hkept
    cases hkept

end

section
/-! PROOFS. The decoder and the encoder (R81 to R88) are inverse to each other: a packed word decodes by its fields, and
a word that decodes is packed from its fields. -/

namespace Sys2Proof

/-- Every packed word decodes by the fields it was packed from; the row count is the one operand that has to fit. -/
theorem decode_encode (i : Instr) (h : i.WellFormed = true) : decode (encode i) = some i := by
  cases i with
  | cls => decide
  | ret => decide
  | jp | call | ldI | jpV0 => simp only [encode, decode, fieldF_packNNN, fieldNNN_packNNN]
  | seImm | sneImm | ldImm | addImm | rnd =>
    simp only [encode, decode, fieldF_packXNN, regX_packXNN, fieldNN_packXNN]
  | skp | sknp => simp only [encode, decode, decodeKey, fieldF_packXNN, regX_packXNN, fieldNN_packXNN]
  | ldVxDt | ldVxK | ldDtVx | ldStVx | addI | ldF | ldB | ldMemVx | ldVxMem =>
    simp only [encode, decode, decodeMisc, fieldF_packXNN, regX_packXNN, fieldNN_packXNN]
  | seReg | sneReg =>
    simp only [encode, decode, decodeSeReg, decodeSneReg, fieldF_packXYN, regX_packXYN, regY_packXYN, fieldN_packXYN]
  | ldReg | orReg | andReg | xorReg | addReg | sub | shr | subn | shl =>
    simp only [encode, decode, decodeAlu, fieldF_packXYN, regX_packXYN, regY_packXYN, fieldN_packXYN]
  | drw x y n =>
    have hn : (BitVec.ofNat 4 n).toNat = n := Nat.mod_eq_of_lt (by simpa [Instr.WellFormed, fitsN] using h)
    simp only [encode, decode, fieldF_packXYN, regX_packXYN, regY_packXYN, fieldN_packXYN, hn]

/-! ### A word of a known family is packed from its remaining fields -/

theorem packNNN_of_family {f : BitVec 4} (op : Word) (hf : fieldF op = f) : packNNN f (fieldNNN op) = op := by
  rw [← hf, packNNN_fields]

theorem packXNN_of_family {f : BitVec 4} {nn : Byte} (op : Word) (hf : fieldF op = f) (hnn : fieldNN op = nn) :
    packXNN f (regX op) nn = op := by
  rw [← hf, ← hnn, packXNN_fields]

theorem packXYN_of_family {f n : BitVec 4} (op : Word) (hf : fieldF op = f) (hn : fieldN op = n) :
    packXYN f (regX op) (regY op) n = op := by
  rw [← hf, ← hn, packXYN_fields]

/-! ### What each dispatching family answers is what encodes to the word -/

theorem encode_of_decodeSys (op : Word) (i : Instr) (hf : fieldF op = 0x0#4) (h : decodeSys op = some i) :
    i.WellFormed = true ∧ encode i = op := by
  unfold decodeSys at h
  split at h <;> cases h
  all_goals
    rename_i hnnn
    rw [← packNNN_of_family op hf, hnnn]
    exact ⟨rfl, rfl⟩

theorem encode_of_decodeSeReg (op : Word) (i : Instr) (hf : fieldF op = 0x5#4) (h : decodeSeReg op = some i) :
    i.WellFormed = true ∧ encode i = op := by
  unfold decodeSeReg at h
  split at h <;> cases h
  exact ⟨rfl, packXYN_of_family op hf ‹_›⟩

theorem encode_of_decodeAlu (op : Word) (i : Instr) (hf : fieldF op = 0x8#4) (h : decodeAlu op = some i) :
    i.WellFormed = true ∧ encode i = op := by
  unfold decodeAlu at h
  split at h <;> cases h
  all_goals exact ⟨rfl, packXYN_of_family op hf ‹_›⟩

theorem encode_of_decodeSneReg (op : Word) (i : Instr) (hf : fieldF op = 0x9#4) (h : decodeSneReg op = some i) :
    i.WellFormed = true ∧ encode i = op := by
  unfold decodeSneReg at h
  split at h <;> cases h
  exact ⟨rfl, packXYN_of_family op hf ‹_›⟩

theorem encode_of_decodeKey (op : Word) (i : Instr) (hf : fieldF op = 0xE#4) (h : decodeKey op = some i) :
    i.WellFormed = true ∧ encode i = op := by
  unfold decodeKey at h
  split at h <;> cases h
  all_goals exact ⟨rfl, packXNN_of_family op hf ‹_›⟩

theorem encode_of_decodeMisc (op : Word) (i : Instr) (hf : fieldF op = 0xF#4) (h : decodeMisc op = some i) :
    i.WellFormed = true ∧ encode i = op := by
  unfold decodeMisc at h
  split at h <;> cases h
  all_goals exact ⟨rfl, packXNN_of_family op hf ‹_›⟩

/-- Family by family, a word that decodes is the encoding of what it decodes to. -/
theorem encode_of_decode (op : Word) (i : Instr) (h : decode op = some i) : i.WellFormed = true ∧ encode i = op := by
  unfold decode at h
  split at h
  case h_1 hf => exact encode_of_decodeSys op i hf h
  case h_2 hf | h_3 hf | h_11 hf | h_12 hf => cases h; exact ⟨rfl, packNNN_of_family op hf⟩
  case h_4 hf | h_5 hf | h_7 hf | h_8 hf | h_13 hf => cases h; exact ⟨rfl, packXNN_of_family op hf rfl⟩
  case h_6 hf => exact encode_of_decodeSeReg op i hf h
  case h_9 hf => exact encode_of_decodeAlu op i hf h
  case h_10 hf => exact encode_of_decodeSneReg op i hf h
  case h_14 hf =>
    cases h
    refine ⟨decide_eq_true (fieldN op).isLt, ?_⟩
    rw [encode, BitVec.ofNat_toNat, BitVec.setWidth_eq, packXYN_of_family op hf rfl]
  case h_15 hf => exact encode_of_decodeKey op i hf h
  case h_16 hf => exact encode_of_decodeMisc op i hf h
  case h_17 => cases h

/-! ### The row of an instruction (R87) -/

theorem rowOf_mem_opcodeMap (i : Instr) : rowOf i ∈ opcodeMap := by
  cases i <;> simp [opcodeMap, rowOf]

/-- The encoding of an instruction belongs to the instruction's row. -/
theorem encode_and_maskBits (i : Instr) : encode i &&& (rowOf i).maskBits = (rowOf i).matchBits := by
  have h : Laws.MatchesRow.Statement i := by
    cases i with
    | cls => exact Laws.MatchesRow.cls
    | ret => exact Laws.MatchesRow.ret
    | jp nnn => exact Laws.MatchesRow.jp nnn
    | call nnn => exact Laws.MatchesRow.call nnn
    | seImm x nn => exact Laws.MatchesRow.seImm x nn
    | sneImm x nn => exact Laws.MatchesRow.sneImm x nn
    | seReg x y => exact Laws.MatchesRow.seReg x y
    | ldImm x nn => exact Laws.MatchesRow.ldImm x nn
    | addImm x nn => exact Laws.MatchesRow.addImm x nn
    | ldReg x y => exact Laws.MatchesRow.ldReg x y
    | orReg x y => exact Laws.MatchesRow.orReg x y
    | andReg x y => exact Laws.MatchesRow.andReg x y
    | xorReg x y => exact Laws.MatchesRow.xorReg x y
    | addReg x y => exact Laws.MatchesRow.addReg x y
    | sub x y => exact Laws.MatchesRow.sub x y
    | shr x y => exact Laws.MatchesRow.shr x y
    | subn x y => exact Laws.MatchesRow.subn x y
    | shl x y => exact Laws.MatchesRow.shl x y
    | sneReg x y => exact Laws.MatchesRow.sneReg x y
    | ldI nnn => exact Laws.MatchesRow.ldI nnn
    | jpV0 nnn => exact Laws.MatchesRow.jpV0 nnn
    | rnd x nn => exact Laws.MatchesRow.rnd x nn
    | drw x y n => exact Laws.MatchesRow.drw x y n
    | skp x => exact Laws.MatchesRow.skp x
    | sknp x => exact Laws.MatchesRow.sknp x
    | ldVxDt x => exact Laws.MatchesRow.ldVxDt x
    | ldVxK x => exact Laws.MatchesRow.ldVxK x
    | ldDtVx x => exact Laws.MatchesRow.ldDtVx x
    | ldStVx x => exact Laws.MatchesRow.ldStVx x
    | addI x => exact Laws.MatchesRow.addI x
    | ldF x => exact Laws.MatchesRow.ldF x
    | ldB x => exact Laws.MatchesRow.ldB x
    | ldMemVx x => exact Laws.MatchesRow.ldMemVx x
    | ldVxMem x => exact Laws.MatchesRow.ldVxMem x
  exact beq_iff_eq.mp h

end Sys2Proof

open Sys2Proof Sys2Proof.Machine

/-- Settles O57: each format's fields are read back from the packed word. -/
theorem decodeEncode : Obligations.DecodeEncode := decode_encode

/-- Settles O58, by the families of the decoder. -/
theorem encodeDecode : Obligations.EncodeDecode := encode_of_decode

/-- Settles O59: a word that decodes is an encoding, which belongs to its instruction's row. -/
theorem decodeFollowsOpcodeMap : Obligations.DecodeFollowsOpcodeMap := by
  refine fun op => ⟨fun i hdecode => ⟨rowOf_mem_opcodeMap i, ?_⟩, decode_eq_none_iff op⟩
  obtain ⟨-, rfl⟩ := encode_of_decode op i hdecode
  exact encode_and_maskBits i

/-- Settles O60: eight closed decodings, evaluated. -/
theorem sampleWordsDecode : Obligations.SampleWordsDecode := by
  unfold Obligations.SampleWordsDecode
  decide

end

section
/-! PROOFS. What each instruction answers, and what it leaves unchanged: one equation per instruction that can fault, one
frame per shape of update, and from them one frame theorem for all instructions. -/

namespace Sys2Proof.Machine

/-! ### The states the delivering operations reach -/

/-- The state after a push on a stack that has room (R122). -/
def State.pushed (s : State) (h : s.sp.val < 16) : State :=
  { s with stk := s.stk.set s.sp.val (s.pc + 2), sp := ⟨s.sp.val + 1, by omega⟩ }

/-- The state after a pop from a stack that is not empty (R123). -/
def State.popped (s : State) (h : 0 < s.sp.val) : State :=
  { s with sp := ⟨s.sp.val - 1, by omega⟩, pc := s.stk[s.sp.val - 1]'(by omega) }

/-- The `n` bytes at ascending addresses from `I` (R52). -/
def State.bytesFromI (s : State) (n : Nat) : List Byte := (List.range' s.i.toNat n).map s.byteAt

/-- The state after a store of bytes at ascending addresses from `I` (R52). -/
def State.storedAtI (s : State) (bytes : List Byte) : State :=
  s.setMem (Memory.writeAll s.mem (List.range' s.i.toNat bytes.length) bytes)

theorem State.bytesFromI_getElem? (s : State) {n j : Nat} (h : j < n) :
    (s.bytesFromI n)[j]? = some (s.byteAt (s.i.toNat + j)) := by
  simp [State.bytesFromI, h]

@[simp] theorem State.bytesFromI_length (s : State) (n : Nat) : (s.bytesFromI n).length = n := by
  simp [State.bytesFromI]

theorem State.storedAtI_byteAt (s : State) (bytes : List Byte) (a : Nat) :
    (s.storedAtI bytes).byteAt a =
      if s.i.toNat ≤ a then (bytes[a - s.i.toNat]?).getD (s.byteAt a) else s.byteAt a :=
  Memory.read_writeAll_range s.mem s.i.toNat bytes a

/-! ### The instructions that can fault, each as one equation -/

theorem exec_call (nnn : Lit12) (s : State) :
    exec (.call nnn) s =
      if h : s.sp.val < 16 then .next ((s.pushed h).jump (literal nnn)) else .fault (.stackOverflow s.pc) := by
  change deliver (s.pushReturn.map _) = _
  obtain ⟨h, hpush⟩ | ⟨h, hpush⟩ := s.pushReturn_cases
  · rw [hpush, dif_pos h]; rfl
  · rw [hpush, dif_neg (by omega)]; rfl

theorem exec_ret (s : State) :
    exec .ret s = if h : 0 < s.sp.val then .next (s.popped h) else .fault (.stackUnderflow s.pc) := by
  change deliver s.popReturn = _
  obtain ⟨h, hpop⟩ | ⟨h, hpop⟩ := s.popReturn_cases
  · rw [hpop, dif_pos h]; rfl
  · rw [hpop, dif_neg (by omega)]; rfl

theorem exec_drw (x y : Reg) (n : Nat) (s : State) :
    exec (.drw x y n) s =
      if n = 0 ∨ s.i.toNat + n ≤ Config.memSize then
        .next (s.drawSprite (s.reg x).toNat (s.reg y).toNat (s.bytesFromI n)).nextPc
      else .fault (.addressFault (max s.i.toNat Config.memSize)) := by
  change deliver ((s.readFromI _ n).map _) = _
  rw [State.readFromI_cases]
  split <;> rfl

/-- FX65 reads `X + 1` bytes, so that the last is at `I + X`. -/
theorem exec_ldVxMem (x : Reg) (s : State) :
    exec (.ldVxMem x) s =
      if s.i.toNat + x.val < Config.memSize then .next (s.loadRegs x (s.bytesFromI (x.val + 1))).nextPc
      else .fault (.addressFault (max s.i.toNat Config.memSize)) := by
  change deliver ((s.readFromI _ (x.val + 1)).map _) = _
  rw [State.readFromI_cases]
  by_cases h : s.i.toNat + x.val < Config.memSize
  · rw [if_pos h, if_pos (by omega)]; rfl
  · rw [if_neg h, if_neg (by omega)]; rfl

/-- A store of one or more bytes at `I` followed by `PC + 2`; `k` is the offset of the last byte. -/
theorem deliver_storeAtI (s : State) (bytes : List Byte) (k : Nat) (hk : bytes.length = k + 1) :
    deliver ((s.storeAtI Config.addrPolicy bytes).map State.nextPc) =
      if s.i.toNat + k < Config.memSize then .next (s.storedAtI bytes).nextPc
      else .fault (.addressFault (max s.i.toNat Config.memSize)) := by
  rw [State.storeAtI_cases]
  by_cases h : s.i.toNat + k < Config.memSize
  · rw [if_pos h, if_pos (by omega)]; rfl
  · rw [if_neg h, if_neg (by omega)]; rfl

theorem exec_ldB (x : Reg) (s : State) :
    exec (.ldB x) s =
      if s.i.toNat + 2 < Config.memSize then .next (s.storedAtI (decimalDigits (s.reg x))).nextPc
      else .fault (.addressFault (max s.i.toNat Config.memSize)) :=
  deliver_storeAtI s _ 2 rfl

theorem exec_ldMemVx (x : Reg) (s : State) :
    exec (.ldMemVx x) s =
      if s.i.toNat + x.val < Config.memSize then .next (s.storedAtI (s.regsUpTo x)).nextPc
      else .fault (.addressFault (max s.i.toNat Config.memSize)) :=
  deliver_storeAtI s _ x.val (s.regsUpTo_length x)

/-! ### The state a completing one of them leaves -/

theorem exec_call_next {nnn : Lit12} {s t : State} (h : exec (.call nnn) s = .next t) :
    ∃ hsp : s.sp.val < 16, t = (s.pushed hsp).jump (literal nnn) := by
  rw [exec_call] at h
  split at h <;> cases h
  exact ⟨‹_›, rfl⟩

theorem exec_ret_next {s t : State} (h : exec .ret s = .next t) : ∃ hsp : 0 < s.sp.val, t = s.popped hsp := by
  rw [exec_ret] at h
  split at h <;> cases h
  exact ⟨‹_›, rfl⟩

/-- What remains of an outcome that is a next state under a condition and a fault otherwise. -/
theorem ite_next {p : Prop} [Decidable p] {a t : State} {f : Fault}
    (h : (if p then .next a else .fault f : Result) = .next t) : p ∧ t = a := by
  split at h <;> cases h
  exact ⟨‹_›, rfl⟩

theorem exec_drw_next {x y : Reg} {n : Nat} {s t : State} (h : exec (.drw x y n) s = .next t) :
    (n = 0 ∨ s.i.toNat + n ≤ Config.memSize) ∧
      t = (s.drawSprite (s.reg x).toNat (s.reg y).toNat (s.bytesFromI n)).nextPc :=
  ite_next ((exec_drw x y n s).symm.trans h)

theorem exec_ldB_next {x : Reg} {s t : State} (h : exec (.ldB x) s = .next t) :
    s.i.toNat + 2 < Config.memSize ∧ t = (s.storedAtI (decimalDigits (s.reg x))).nextPc :=
  ite_next ((exec_ldB x s).symm.trans h)

theorem exec_ldMemVx_next {x : Reg} {s t : State} (h : exec (.ldMemVx x) s = .next t) :
    s.i.toNat + x.val < Config.memSize ∧ t = (s.storedAtI (s.regsUpTo x)).nextPc :=
  ite_next ((exec_ldMemVx x s).symm.trans h)

theorem exec_ldVxMem_next {x : Reg} {s t : State} (h : exec (.ldVxMem x) s = .next t) :
    s.i.toNat + x.val < Config.memSize ∧ t = (s.loadRegs x (s.bytesFromI (x.val + 1))).nextPc :=
  ite_next ((exec_ldVxMem x s).symm.trans h)

/-! ### FX0A (R191): no key, one key, several keys -/

theorem exec_ldVxK_of_none (x : Reg) (s : State) (h : s.pressedKeys = []) : exec (.ldVxK x) s = .next s := by
  change execLdVxK x s = _
  simp only [execLdVxK, h]

theorem exec_ldVxK_of_one (x : Reg) (s : State) {k : Fin 16} (h : s.pressedKeys = [k]) :
    exec (.ldVxK x) s = .next (s.setReg x (BitVec.ofNat 8 k.val)).nextPc := by
  change execLdVxK x s = _
  simp only [execLdVxK, h]

/-- With several keys pressed a draw picks one of them, and the draw is counted. -/
theorem exec_ldVxK_of_several (x : Reg) (s : State) {k j : Fin 16} {js : List (Fin 16)}
    (h : s.pressedKeys = k :: j :: js) :
    exec (.ldVxK x) s = .next (s.setReg x (BitVec.ofNat 8
      (pickKey Config.keyChoice (Config.keyDraw s.draws) k (j :: js)).val)).countDraw.nextPc := by
  change execLdVxK x s = _
  simp only [execLdVxK, h]

/-- Everything FX0A can answer: it waits, or it writes a pressed key's index, counting a draw or not. -/
theorem exec_ldVxK_cases (x : Reg) (s : State) :
    (s.pressedKeys = [] ∧ exec (.ldVxK x) s = .next s) ∨
    ∃ k, k ∈ s.pressedKeys ∧
      (exec (.ldVxK x) s = .next (s.setReg x (BitVec.ofNat 8 k.val)).nextPc ∨
        exec (.ldVxK x) s = .next (s.setReg x (BitVec.ofNat 8 k.val)).countDraw.nextPc) := by
  match h : s.pressedKeys with
  | [] => exact .inl ⟨rfl, exec_ldVxK_of_none x s h⟩
  | [k] => exact .inr ⟨k, List.mem_singleton_self k, .inl (exec_ldVxK_of_one x s h)⟩
  | k :: j :: js => exact .inr ⟨_, pickKey_mem _ _ _ _, .inr (exec_ldVxK_of_several x s h)⟩

/-! ### Frames: one per shape of update -/

theorem Frame.refl (s : State) : Frame [] [] s s := ⟨fun _ _ => rfl, fun p _ => by cases p <;> simp [Part.same]⟩

theorem Frame.mono {rs rs' : List Reg} {ps ps' : List Part} {s t : State} (h : Frame rs ps s t) (hr : rs ⊆ rs')
    (hp : ps ⊆ ps') : Frame rs' ps' s t :=
  ⟨fun r hn => h.1 r fun hm => hn (hr hm), fun p hn => h.2 p fun hm => hn (hp hm)⟩

theorem frame_jump (s : State) (w : Word) : Frame [] [] s (s.jump w) :=
  ⟨fun _ _ => rfl, fun p _ => by cases p <;> simp [Part.same]⟩

theorem frame_skipIf (s : State) (c : Bool) : Frame [] [] s (s.skipIf c) :=
  ⟨fun r _ => by simp, fun p _ => by cases p <;> simp [Part.same]⟩

theorem frame_setRegFlag_nextPc (s : State) (x : Reg) (b : Byte) (c : Bool) :
    Frame [x, vf] [] s (s.setRegFlag x b c).nextPc := by
  refine ⟨fun r hr => ?_, fun p _ => by cases p <;> simp [Part.same]⟩
  simp only [List.mem_cons, List.not_mem_nil, or_false, not_or] at hr
  simp [hr]

theorem frame_setReg_countDraw_nextPc (s : State) (x : Reg) (b : Byte) :
    Frame [x] [.draws] s (s.setReg x b).countDraw.nextPc := by
  refine ⟨fun r hr => ?_, fun p hp => by cases p <;> simp_all [Part.same]⟩
  simp [List.ne_of_not_mem_cons hr]

theorem frame_setDt_nextPc (s : State) (b : Byte) : Frame [] [.dt] s (s.setDt b).nextPc :=
  ⟨fun _ _ => rfl, fun p hp => by cases p <;> simp_all [Part.same]⟩

theorem frame_setSt_nextPc (s : State) (b : Byte) : Frame [] [.st] s (s.setSt b).nextPc :=
  ⟨fun _ _ => rfl, fun p hp => by cases p <;> simp_all [Part.same]⟩

theorem frame_setScreen_nextPc (s : State) (fb : Screen) : Frame [] [.fb, .dirty] s (s.setScreen fb).nextPc :=
  ⟨fun _ _ => rfl, fun p hp => by cases p <;> simp_all [Part.same]⟩

theorem frame_drawSprite_nextPc (s : State) (x0 y0 : Nat) (rows : List Byte) :
    Frame [vf] [.fb, .dirty] s (s.drawSprite x0 y0 rows).nextPc := by
  refine ⟨fun r hr => ?_, fun p hp => by cases p <;> simp_all [Part.same]⟩
  simp [List.ne_of_not_mem_cons hr]

theorem frame_setMem_nextPc (s : State) (m : Mem) : Frame [] [.mem] s (s.setMem m).nextPc :=
  ⟨fun _ _ => rfl, fun p hp => by cases p <;> simp_all [Part.same]⟩

theorem frame_loadRegs_nextPc (s : State) (x : Reg) (bytes : List Byte) :
    Frame (destRegs (.ldVxMem x)) [] s (s.loadRegs x bytes).nextPc := by
  refine ⟨fun r hr => ?_, fun p _ => by cases p <;> simp [Part.same]⟩
  have hx : ¬ r.val ≤ x.val := by simpa [destRegs] using hr
  simp [hx]

theorem frame_pushed_jump (s : State) (h : s.sp.val < 16) (w : Word) :
    Frame [] [.stk, .sp] s ((s.pushed h).jump w) :=
  ⟨fun _ _ => rfl, fun p hp => by cases p <;> simp_all [Part.same, State.pushed, State.byteAt]⟩

theorem frame_popped (s : State) (h : 0 < s.sp.val) : Frame [] [.sp] s (s.popped h) :=
  ⟨fun _ _ => rfl, fun p hp => by cases p <;> simp_all [Part.same, State.popped, State.byteAt]⟩

/-- The parts of the state an instruction writes besides general registers and `PC` (R32, R52). -/
def destParts : Instr → List Part
  | .cls | .drw _ _ _ => [.fb, .dirty]
  | .call _ => [.stk, .sp]
  | .ret => [.sp]
  | .ldI _ | .addI _ | .ldF _ => [.i]
  | .ldDtVx _ => [.dt]
  | .ldStVx _ => [.st]
  | .ldB _ | .ldMemVx _ => [.mem]
  | .rnd _ _ | .ldVxK _ => [.draws]
  | _ => []

/-- Every instruction that completes writes its listed registers, its listed parts and `PC`, and nothing else. -/
theorem exec_frame (i : Instr) (s t : State) (h : exec i s = .next t) : Frame (destRegs i) (destParts i) s t := by
  cases i with
  | cls => cases h; exact frame_setScreen_nextPc s _
  | ret =>
    obtain ⟨_, rfl⟩ := exec_ret_next h
    exact frame_popped s _
  | call nnn =>
    obtain ⟨_, rfl⟩ := exec_call_next h
    exact frame_pushed_jump s _ _
  | jp nnn | jpV0 nnn => cases h; exact frame_jump s _
  | seImm x nn | sneImm x nn | seReg x y | sneReg x y | skp x | sknp x => cases h; exact frame_skipIf s _
  | ldImm x nn | addImm x nn | ldReg x y | orReg x y | andReg x y | xorReg x y | ldVxDt x =>
    cases h; exact frame_setReg_nextPc s x _
  | addReg x y | sub x y | shr x y | subn x y | shl x y => cases h; exact frame_setRegFlag_nextPc s x _ _
  | ldI nnn | addI x | ldF x => cases h; exact frame_setI_nextPc s _
  | rnd x nn => cases h; exact frame_setReg_countDraw_nextPc s x _
  | drw x y n =>
    obtain ⟨_, rfl⟩ := exec_drw_next h
    exact frame_drawSprite_nextPc s _ _ _
  | ldVxK x =>
    obtain ⟨-, hexec⟩ | ⟨k, -, hexec | hexec⟩ := exec_ldVxK_cases x s
    · cases hexec.symm.trans h
      exact (Frame.refl _).mono (by simp) (by simp)
    · cases hexec.symm.trans h
      exact (frame_setReg_nextPc s x _).mono (List.Subset.refl _) (by simp)
    · cases hexec.symm.trans h
      exact frame_setReg_countDraw_nextPc s x _
  | ldDtVx x => cases h; exact frame_setDt_nextPc s _
  | ldStVx x => cases h; exact frame_setSt_nextPc s _
  | ldB x =>
    obtain ⟨_, rfl⟩ := exec_ldB_next h
    exact frame_setMem_nextPc s _
  | ldMemVx x =>
    obtain ⟨_, rfl⟩ := exec_ldMemVx_next h
    exact frame_setMem_nextPc s _
  | ldVxMem x =>
    obtain ⟨_, rfl⟩ := exec_ldVxMem_next h
    exact frame_loadRegs_nextPc s x _

/-! ### Where `PC` goes (R106) -/

theorem literal_eq_ofNat (nnn : Lit12) : literal nnn = BitVec.ofNat 16 nnn.toNat := by
  apply BitVec.eq_of_toNat_eq
  rw [literal_toNat, BitVec.toNat_ofNat, Nat.mod_eq_of_lt (nnn.isLt.trans (by decide))]

theorem indexedTarget_eq_ofNat (s : State) (nnn : Lit12) :
    indexedTarget s nnn = BitVec.ofNat 16 (nnn.toNat + (s.reg 0).toNat) := by
  rw [← indexedTarget_toNat, BitVec.ofNat_toNat, BitVec.setWidth_eq]

theorem State.popped_pc (s : State) (h : 0 < s.sp.val) : (s.popped h).pc = returnAddress s := by
  have hlt : s.sp.val - 1 < s.stk.toList.length := by simp; omega
  simp [State.popped, returnAddress, List.getD_eq_getElem?_getD, List.getElem?_eq_getElem hlt]

/-- Every instruction that completes leaves `PC` where the classification of R106 says. -/
theorem exec_pc (i : Instr) (s t : State) (h : exec i s = .next t) : t.pc = pcAfter i s := by
  cases i with
  | ret =>
    obtain ⟨_, rfl⟩ := exec_ret_next h
    exact s.popped_pc _
  | call nnn =>
    obtain ⟨_, rfl⟩ := exec_call_next h
    exact literal_eq_ofNat nnn
  | jp nnn => cases h; exact literal_eq_ofNat nnn
  | jpV0 nnn => cases h; exact indexedTarget_eq_ofNat s nnn
  | seImm x nn | sneImm x nn | seReg x y | sneReg x y | skp x | sknp x =>
    cases h
    simp [pcAfter, skipTarget]
  | drw x y n =>
    obtain ⟨_, rfl⟩ := exec_drw_next h
    rfl
  | ldVxK x =>
    obtain ⟨hnone, hexec⟩ | ⟨k, hk, hexec | hexec⟩ := exec_ldVxK_cases x s
    · cases hexec.symm.trans h
      exact (if_pos hnone).symm
    all_goals
      cases hexec.symm.trans h
      exact (if_neg (List.ne_nil_of_mem hk)).symm
  | ldB x =>
    obtain ⟨_, rfl⟩ := exec_ldB_next h
    rfl
  | ldMemVx x =>
    obtain ⟨_, rfl⟩ := exec_ldMemVx_next h
    rfl
  | ldVxMem x =>
    obtain ⟨_, rfl⟩ := exec_ldVxMem_next h
    rfl
  | _ => cases h; rfl

end Sys2Proof.Machine

open Sys2Proof Sys2Proof.Machine

/-- Settles O15, instruction by instruction. -/
theorem pcDiscipline : Obligations.PcDiscipline := exec_pc

end

section
/-! PROOFS. The faults of an instruction and of a tick (R203 to R209): exactly the listed ones, and completion
everywhere else. -/

namespace Sys2Proof.Machine

/-- The outcome is the expected fault where one is expected, and a next state where none is. -/
def FaultsAs (o : Result) : Option Fault → Prop
  | some f => o = .fault f
  | none => ∃ t, o = .next t

theorem FaultsAs.fault_iff {o : Result} {e : Option Fault} (h : FaultsAs o e) (f : Fault) : o = .fault f ↔ e = some f := by
  cases e with
  | none => obtain ⟨t, rfl⟩ := h; simp
  | some g => have ho : o = .fault g := h; simp [ho]

theorem FaultsAs.completes {o : Result} {e : Option Fault} (h : FaultsAs o e) (he : e = none) : ∃ t, o = .next t := by
  subst he; exact h

theorem FaultsAs.not_refused {o : Result} {e : Option Fault} (h : FaultsAs o e) (r : Refusal) : o ≠ .refused r := by
  cases e with
  | none => obtain ⟨t, rfl⟩ := h; simp
  | some g => have ho : o = .fault g := h; simp [ho]

/-- A completion under a condition, the fault otherwise, against the fault listed under the opposite condition. -/
theorem FaultsAs.of_ite {p q : Prop} [Decidable p] [Decidable q] (t : State) (f : Fault) (hpq : p ↔ ¬ q) :
    FaultsAs (if p then .next t else .fault f) (if q then some f else none) := by
  by_cases hq : q
  · rw [if_pos hq, if_neg (mt hpq.mp (not_not_intro hq))]; rfl
  · rw [if_neg hq, if_pos (hpq.mpr hq)]; exact ⟨t, rfl⟩

/-- The call, the return and the accesses through `I` fault under their listed condition; every other instruction
completes from every state. -/
theorem exec_faultsAs (i : Instr) (s : State) : FaultsAs (exec i s) (execFault i s) := by
  cases i with
  | call nnn =>
    rw [exec_call]
    by_cases h : s.sp.val < 16
    · rw [dif_pos h, execFault, if_neg (by omega)]; exact ⟨_, rfl⟩
    · rw [dif_neg h, execFault, if_pos (by omega)]; rfl
  | ret =>
    rw [exec_ret]
    by_cases h : 0 < s.sp.val
    · rw [dif_pos h, execFault, if_neg (by omega)]; exact ⟨_, rfl⟩
    · rw [dif_neg h, execFault, if_pos (by omega)]; rfl
  | drw x y n => rw [exec_drw]; exact FaultsAs.of_ite _ _ (by omega)
  | ldB x => rw [exec_ldB]; exact FaultsAs.of_ite _ _ (by omega)
  | ldMemVx x => rw [exec_ldMemVx]; exact FaultsAs.of_ite _ _ (by omega)
  | ldVxMem x => rw [exec_ldVxMem]; exact FaultsAs.of_ite _ _ (by omega)
  | ldVxK x => obtain ⟨t, hexec, -⟩ := exec_ldVxK_completes x s; exact ⟨t, hexec⟩
  | _ => exact ⟨_, rfl⟩

/-- The fetch of a `PC` that is even and inside memory answers the word at `PC` (R102). -/
theorem fetch_eq_wordAtPc (s : State) (heven : s.pc.toNat % 2 = 0) (hlt : s.pc.toNat < Config.memSize) :
    fetch Config.addrPolicy s = .ok (wordAtPc s) :=
  (fetch_eq_ok s _).mpr ⟨heven, hlt, rfl⟩

theorem executes_iff (s : State) (i : Instr) :
    Executes s i ↔ s.pc.toNat % 2 = 0 ∧ s.pc.toNat < Config.memSize ∧ decode (wordAtPc s) = some i := by
  constructor
  · rintro ⟨op, hfetch, hdecode⟩
    obtain ⟨heven, hlt, rfl⟩ := (fetch_eq_ok s op).mp hfetch
    exact ⟨heven, hlt, hdecode⟩
  · rintro ⟨heven, hlt, hdecode⟩
    exact ⟨_, fetch_eq_wordAtPc s heven hlt, hdecode⟩

/-- The instruction a tick executes is unique. -/
theorem Executes.unique {s : State} {i j : Instr} (hi : Executes s i) (hj : Executes s j) : i = j := by
  obtain ⟨-, -, hi⟩ := (executes_iff s i).mp hi
  obtain ⟨-, -, hj⟩ := (executes_iff s j).mp hj
  exact Option.some.inj (hi.symm.trans hj)

theorem step_of_executes {s : State} {i : Instr} (h : Executes s i) : step s = endTick (exec i s) := by
  obtain ⟨op, hfetch, hdecode⟩ := h
  simp only [step, hfetch, hdecode]

theorem endTick_faultsAs {o : Result} {e : Option Fault} (h : FaultsAs o e) : FaultsAs (endTick o) e := by
  cases e with
  | none => obtain ⟨t, rfl⟩ := h; exact ⟨_, rfl⟩
  | some f => have ho : o = .fault f := h; rw [ho]; rfl

/-- The phases in the order of R209: alignment, range, decode, execution. -/
theorem step_faultsAs (s : State) : FaultsAs (step s) (stepFault s) := by
  have hcases := fetch_cases s
  unfold stepFault
  by_cases hodd : s.pc.toNat % 2 = 1
  · rw [if_pos hodd] at hcases ⊢
    exact (step_eq_fault s _).mpr (.inl hcases)
  by_cases hout : Config.memSize ≤ s.pc.toNat
  · rw [if_neg hodd, if_pos hout] at hcases ⊢
    exact (step_eq_fault s _).mpr (.inl hcases)
  rw [if_neg hodd, if_neg hout] at hcases ⊢
  cases hdecode : decode (wordAtPc s) with
  | none => exact (step_eq_fault s _).mpr (.inr (.inl ⟨_, hcases, hdecode, rfl⟩))
  | some i =>
    rw [step_of_executes ⟨_, hcases, hdecode⟩]
    exact endTick_faultsAs (exec_faultsAs i s)

end Sys2Proof.Machine

open Sys2Proof Sys2Proof.Machine

/-- Settles O39, by the instructions that can fault. -/
theorem faultsExactlyWhereListed : Obligations.FaultsExactlyWhereListed :=
  fun i s => have h := exec_faultsAs i s; ⟨h.fault_iff, h.completes, h.not_refused⟩

/-- Settles O40, by the phases of a tick. -/
theorem faultPriority : Obligations.FaultPriority :=
  fun s => have h := step_faultsAs s; ⟨h.fault_iff, h.completes, h.not_refused⟩

/-- Settles O38: the tick that fetches `i` is `exec i` closed by the timer phase, and what decodes is well formed. -/
theorem stepRunsDecoded : Obligations.StepRunsDecoded := by
  intro s i heven hlt hdecode
  have hstep : step s = endTick (exec i s) := step_of_executes ((executes_iff s i).mpr ⟨heven, hlt, hdecode⟩)
  obtain ⟨hwf, -⟩ := encode_of_decode _ i hdecode
  exact ⟨hwf, fun t hexec => by rw [hstep, hexec]; rfl, fun f hexec => by rw [hstep, hexec]; rfl⟩

/-- Settles O42: the host's tick on a fault keeps the state, so the same tick repeats. -/
theorem faultingTickChangesNothing : Obligations.FaultingTickChangesNothing := by
  intro s f hstep
  rw [tick_of_fault s f hstep]
  exact ⟨rfl, rfl, tick_of_fault s f hstep⟩

end

section
/-! PROOFS. Noninterference of `DIRTY` and `ST` (R30, R34): which fault a tick raises does not depend on them, and what
an instruction computes from two states that differ in them alone differs in them alone. -/

namespace Sys2Proof.Machine

theorem sameButSilent_iff (s u : State) : SameButSilent s u ↔ ∃ d b, u = { s with dirty := d, st := b } := by
  constructor
  · exact fun h => ⟨u.dirty, u.st, h⟩
  · rintro ⟨d, b, rfl⟩; rfl

theorem SameButSilent.timerPhase {s u : State} (h : SameButSilent s u) : SameButSilent s.timerPhase u.timerPhase := by
  obtain ⟨d, b, rfl⟩ := (sameButSilent_iff s u).mp h
  rfl

theorem SameButSilent.stepFault_eq {s u : State} (h : SameButSilent s u) : stepFault u = stepFault s := by
  obtain ⟨d, b, rfl⟩ := (sameButSilent_iff s u).mp h
  rfl

theorem SameButSilent.executes {s u : State} {i : Instr} (h : SameButSilent s u) (hi : Executes s i) : Executes u i := by
  obtain ⟨d, b, rfl⟩ := (sameButSilent_iff s u).mp h
  exact hi

theorem SameButSilent.skipIf {s u : State} (h : SameButSilent s u) (c : Bool) :
    SameButSilent (s.skipIf c) (u.skipIf c) := by
  obtain ⟨d, b, rfl⟩ := (sameButSilent_iff s u).mp h
  cases c <;> rfl

/-- No instruction reads `DIRTY` or `ST`: the two next states differ in what those two fields hold and in nothing
else. -/
theorem exec_sameButSilent (i : Instr) {s u t w : State} (h : SameButSilent s u) (hs : exec i s = .next t)
    (hu : exec i u = .next w) : SameButSilent t w := by
  obtain ⟨d, b, rfl⟩ := (sameButSilent_iff s u).mp h
  cases i with
  | call nnn =>
    obtain ⟨_, rfl⟩ := exec_call_next hs
    obtain ⟨_, rfl⟩ := exec_call_next hu
    rfl
  | ret =>
    obtain ⟨_, rfl⟩ := exec_ret_next hs
    obtain ⟨_, rfl⟩ := exec_ret_next hu
    rfl
  | drw x y n =>
    obtain ⟨_, rfl⟩ := exec_drw_next hs
    obtain ⟨_, rfl⟩ := exec_drw_next hu
    rfl
  | ldB x =>
    obtain ⟨_, rfl⟩ := exec_ldB_next hs
    obtain ⟨_, rfl⟩ := exec_ldB_next hu
    rfl
  | ldMemVx x =>
    obtain ⟨_, rfl⟩ := exec_ldMemVx_next hs
    obtain ⟨_, rfl⟩ := exec_ldMemVx_next hu
    rfl
  | ldVxMem x =>
    obtain ⟨_, rfl⟩ := exec_ldVxMem_next hs
    obtain ⟨_, rfl⟩ := exec_ldVxMem_next hu
    rfl
  | ldVxK x =>
    match hkeys : s.pressedKeys with
    | [] =>
      cases (exec_ldVxK_of_none x s hkeys).symm.trans hs
      cases (exec_ldVxK_of_none x { s with dirty := d, st := b } hkeys).symm.trans hu
      exact h
    | [k] =>
      cases (exec_ldVxK_of_one x s hkeys).symm.trans hs
      cases (exec_ldVxK_of_one x { s with dirty := d, st := b } hkeys).symm.trans hu
      rfl
    | k :: j :: js =>
      cases (exec_ldVxK_of_several x s hkeys).symm.trans hs
      cases (exec_ldVxK_of_several x { s with dirty := d, st := b } hkeys).symm.trans hu
      rfl
  | seImm x nn | sneImm x nn | seReg x y | sneReg x y | skp x | sknp x =>
    cases hs; cases hu
    exact h.skipIf _
  | _ => cases hs; cases hu; rfl

end Sys2Proof.Machine

open Sys2Proof Sys2Proof.Machine

/-- Settles O46: both ticks raise the same fault or none, and then execute the same instruction. -/
theorem dirtyAndSoundAreInvisible : Obligations.DirtyAndSoundAreInvisible := by
  refine fun s u hsu => ⟨fun t hs => ?_, fun f hs => ?_⟩
  · have hnone : stepFault s = none := by
      cases hfault : stepFault s with
      | none => rfl
      | some f => cases hs.symm.trans (((step_faultsAs s).fault_iff f).mpr hfault)
    obtain ⟨w, hu⟩ := (step_faultsAs u).completes (hsu.stepFault_eq.trans hnone)
    obtain ⟨i, t', hi, hexec, rfl⟩ := (step_eq_next s t).mp hs
    obtain ⟨j, w', hj, hexec', rfl⟩ := (step_eq_next u w).mp hu
    cases hj.unique (hsu.executes hi)
    exact ⟨_, hu, (exec_sameButSilent i hsu hexec hexec').timerPhase⟩
  · rw [(step_faultsAs s).fault_iff, ← hsu.stepFault_eq] at hs
    exact ((step_faultsAs u).fault_iff f).mpr hs

end

section
/-! PROOFS. The rules over all instructions (R22, R32, R52, R66), read off the frame theorem: a part that differs is one
the instruction lists. -/

namespace Sys2Proof.Machine

theorem b2n_zero_or_one (c : Bool) : b2n c = 0 ∨ b2n c = 1 := by cases c <;> simp [b2n]

/-- The five ALU flag writers and the draw leave `b2n` of some condition in `VF` (R21, R31). -/
theorem exec_flagWriter_vf (i : Instr) (s t : State) (h : exec i s = .next t)
    (hflag : (∃ x y, i = .addReg x y ∨ i = .sub x y ∨ i = .subn x y ∨ i = .shr x y ∨ i = .shl x y) ∨
      ∃ x y n, i = .drw x y n) : ∃ c, t.reg vf = b2n c := by
  obtain ⟨x, y, rfl | rfl | rfl | rfl | rfl⟩ | ⟨x, y, n, rfl⟩ := hflag
  case inr =>
    obtain ⟨-, rfl⟩ := exec_drw_next h
    exact ⟨_, by simp; rfl⟩
  all_goals
    cases h
    exact ⟨_, by simp; rfl⟩

/-! ### Which instructions list a part -/

theorem key_notMem_destParts (i : Instr) : Part.key ∉ destParts i := by
  cases i <;> simp [destParts]

theorem stk_mem_destParts (i : Instr) : Part.stk ∈ destParts i ↔ ∃ nnn, i = .call nnn := by
  cases i <;> simp [destParts]

theorem sp_mem_destParts (i : Instr) : Part.sp ∈ destParts i ↔ (∃ nnn, i = .call nnn) ∨ i = .ret := by
  cases i <;> simp [destParts]

theorem dt_mem_destParts (i : Instr) : Part.dt ∈ destParts i ↔ ∃ x, i = .ldDtVx x := by
  cases i <;> simp [destParts]

theorem st_mem_destParts (i : Instr) : Part.st ∈ destParts i ↔ ∃ x, i = .ldStVx x := by
  cases i <;> simp [destParts]

theorem fb_mem_destParts (i : Instr) : Part.fb ∈ destParts i ↔ (∃ x y n, i = .drw x y n) ∨ i = .cls := by
  cases i <;> simp [destParts]

theorem dirty_mem_destParts (i : Instr) : Part.dirty ∈ destParts i ↔ (∃ x y n, i = .drw x y n) ∨ i = .cls := by
  cases i <;> simp [destParts]

theorem i_mem_destParts (i : Instr) :
    Part.i ∈ destParts i ↔ (∃ nnn, i = .ldI nnn) ∨ (∃ x, i = .addI x) ∨ ∃ x, i = .ldF x := by
  cases i <;> simp [destParts]

theorem mem_mem_destParts (i : Instr) : Part.mem ∈ destParts i ↔ (∃ x, i = .ldB x) ∨ ∃ x, i = .ldMemVx x := by
  cases i <;> simp [destParts]

/-- A part that an execution changes is one its instruction lists. -/
theorem mem_destParts_of_not_same {i : Instr} {s t : State} (h : exec i s = .next t) {p : Part} (hp : ¬ p.same s t) :
    p ∈ destParts i :=
  not_imp_comm.mp ((exec_frame i s t h).2 p) hp

/-- A clear and a draw set `DIRTY` (R34). -/
theorem exec_sets_dirty {i : Instr} {s t : State} (h : exec i s = .next t)
    (hi : (∃ x y n, i = .drw x y n) ∨ i = .cls) : t.dirty = true := by
  obtain ⟨x, y, n, rfl⟩ | rfl := hi
  · obtain ⟨-, rfl⟩ := exec_drw_next h
    rfl
  · cases h; rfl

/-- A store at `I` changes no byte outside the stored range. -/
theorem State.mem_range_of_storedAtI_ne {s : State} {bytes : List Byte} {a : Nat}
    (h : (s.storedAtI bytes).byteAt a ≠ s.byteAt a) : s.i.toNat ≤ a ∧ a < s.i.toNat + bytes.length := by
  rw [State.storedAtI_byteAt] at h
  by_cases hle : s.i.toNat ≤ a
  · refine ⟨hle, not_le.mp fun hge => h ?_⟩
    rw [if_pos hle, List.getElem?_eq_none (by omega)]; rfl
  · exact absurd (if_neg hle) h

/-- A byte that an execution changes is one of those its instruction stores (R52, R66). -/
theorem exec_writes_memory {i : Instr} {s t : State} {a : Nat} (h : exec i s = .next t) (ha : t.byteAt a ≠ s.byteAt a) :
    ((∃ x, i = .ldB x) ∨ ∃ x, i = .ldMemVx x) ∧ s.i.toNat ≤ a ∧ a < s.i.toNat + storedBytes i := by
  have hmem : Part.mem ∈ destParts i := mem_destParts_of_not_same h fun hsame => ha (hsame a)
  have hi := (mem_mem_destParts i).mp hmem
  refine ⟨hi, ?_⟩
  obtain ⟨x, rfl⟩ | ⟨x, rfl⟩ := hi
  · obtain ⟨-, rfl⟩ := exec_ldB_next h
    exact State.mem_range_of_storedAtI_ne ha
  · obtain ⟨-, rfl⟩ := exec_ldMemVx_next h
    have hrange := State.mem_range_of_storedAtI_ne ha
    rwa [State.regsUpTo_length] at hrange

end Sys2Proof.Machine

open Sys2Proof Sys2Proof.Machine

/-- Settles O43: the frame, and the flag written as `b2n` of a condition. -/
theorem registerWriters : Obligations.RegisterWriters := by
  refine fun i s t h => ⟨(exec_frame i s t h).1, fun hflag => ?_⟩
  obtain ⟨c, hc⟩ := exec_flagWriter_vf i s t h hflag
  rw [hc]
  exact b2n_zero_or_one c

/-- Settles O44: a tick writes memory through its execution alone. -/
theorem onlyStoresWriteMemory : Obligations.OnlyStoresWriteMemory := by
  intro s t a hstep ha
  obtain ⟨i, u, hi, hexec, rfl⟩ := (step_eq_next s t).mp hstep
  exact ⟨i, hi, exec_writes_memory hexec ha⟩

/-- Settles O45, part by part from the frame. -/
theorem controlStateWriters : Obligations.ControlStateWriters := by
  intro i s t h
  have changed {p : Part} (hp : ¬ p.same s t) : p ∈ destParts i := mem_destParts_of_not_same h hp
  exact ⟨(exec_frame i s t h).2 .key (key_notMem_destParts i),
    fun hne => (stk_mem_destParts i).mp (changed hne),
    fun hne => (sp_mem_destParts i).mp (changed hne),
    fun hne => (dt_mem_destParts i).mp (changed hne),
    fun hne => (st_mem_destParts i).mp (changed hne),
    fun hne => (fb_mem_destParts i).mp (changed hne),
    exec_keeps_dirty i s t h,
    exec_sets_dirty h,
    fun hne => (dirty_mem_destParts i).mp (changed hne),
    fun hne => (i_mem_destParts i).mp (changed hne)⟩

end

section
/-! PROOFS. The invariant `CoreInv` (R26, R51, R56, R122): construction establishes it, and every tick and every host
operation keeps it. -/

namespace Sys2Proof.Machine

/-! ### Memory -/

/-- Memory's data, not only what it reads as, is kept by every instruction but the two stores. -/
theorem exec_keeps_wf (i : Instr) (s t : State) (hwf : Memory.wf s.mem = true) (h : exec i s = .next t) :
    Memory.wf t.mem = true := by
  cases i with
  | ldB x =>
    obtain ⟨u, hstore, rfl⟩ := (deliver_map_eq_next _ _ t).mp h
    exact s.storeAtI_wf _ u _ hwf hstore
  | ldMemVx x =>
    obtain ⟨u, hstore, rfl⟩ := (deliver_map_eq_next _ _ t).mp h
    exact s.storeAtI_wf _ u _ hwf hstore
  | call nnn => obtain ⟨_, rfl⟩ := exec_call_next h; exact hwf
  | ret => obtain ⟨_, rfl⟩ := exec_ret_next h; exact hwf
  | drw x y n => obtain ⟨_, rfl⟩ := exec_drw_next h; exact hwf
  | ldVxMem x => obtain ⟨_, rfl⟩ := exec_ldVxMem_next h; exact hwf
  | ldVxK x =>
    obtain ⟨-, hexec⟩ | ⟨k, -, hexec | hexec⟩ := exec_ldVxK_cases x s
    all_goals
      cases hexec.symm.trans h
      exact hwf
  | seImm x nn | sneImm x nn | seReg x y | sneReg x y | skp x | sknp x => cases h; simpa using hwf
  | _ => cases h; exact hwf

/-! ### Return addresses -/

/-- Every return address in use is even and at most `MEM_SIZE` (the second clause of `CoreInv`). -/
def ReturnsOk (s : State) : Prop :=
  ∀ k : Fin 16, k.val < s.sp.val → s.stk[k].toNat % 2 = 0 ∧ s.stk[k].toNat ≤ Config.memSize

/-- A call from an even `PC` inside memory pushes an even address at most `MEM_SIZE`. -/
theorem ReturnsOk.pushed_jump {s : State} (hret : ReturnsOk s) (heven : s.pc.toNat % 2 = 0)
    (hlt : s.pc.toNat < Config.memSize) (hsp : s.sp.val < 16) (w : Word) : ReturnsOk ((s.pushed hsp).jump w) := by
  have hm : Config.memSize = 4096 := rfl
  have h2 : (2 : Word).toNat = 2 := rfl
  intro k hk
  have hk' : k.val < s.sp.val + 1 := hk
  have hstk : ((s.pushed hsp).jump w).stk[k] = if s.sp.val = k.val then s.pc + 2 else s.stk[k] :=
    Vector.getElem_set hsp k.isLt
  rw [hstk]
  split
  · rw [BitVec.toNat_add, h2]
    omega
  · exact hret k (by omega)

/-- A return only shortens the part in use. -/
theorem ReturnsOk.popped {s : State} (hret : ReturnsOk s) (hsp : 0 < s.sp.val) : ReturnsOk (s.popped hsp) := fun k hk =>
  hret k (Nat.lt_of_lt_of_le hk (Nat.sub_le _ _))

theorem exec_keeps_returns (i : Instr) (s t : State) (hret : ReturnsOk s) (heven : s.pc.toNat % 2 = 0)
    (hlt : s.pc.toNat < Config.memSize) (h : exec i s = .next t) : ReturnsOk t := by
  by_cases hcall : ∃ nnn, i = .call nnn
  · obtain ⟨nnn, rfl⟩ := hcall
    obtain ⟨hsp, rfl⟩ := exec_call_next h
    exact hret.pushed_jump heven hlt hsp _
  by_cases hpop : i = .ret
  · subst hpop
    obtain ⟨hsp, rfl⟩ := exec_ret_next h
    exact hret.popped hsp
  · have hframe := (exec_frame i s t h).2
    have hstk : t.stk = s.stk := hframe .stk (mt (stk_mem_destParts i).mp hcall)
    have hsp : t.sp = s.sp := hframe .sp (mt (sp_mem_destParts i).mp (not_or.mpr ⟨hcall, hpop⟩))
    intro k hk
    rw [hsp] at hk
    rw [hstk]
    exact hret k hk

/-! ### The program counter -/

/-- A return address taken is one that was in use. -/
theorem returnAddress_ok {s : State} (hret : ReturnsOk s) (hsp : 0 < s.sp.val) :
    (returnAddress s).toNat % 2 = 0 ∧ (returnAddress s).toNat ≤ Config.memSize := by
  have hlt : s.sp.val - 1 < 16 := by omega
  have haddr : returnAddress s = s.stk[(⟨s.sp.val - 1, hlt⟩ : Fin 16)] := by
    rw [← s.popped_pc hsp]; rfl
  rw [haddr]
  exact hret _ (by simp; omega)

/-- Everything `PC` can become: a jump's target, a return address, or 0, 2 or 4 further on. -/
theorem pcAfter_cases (i : Instr) (s : State) :
    (∃ nnn, (i = .jp nnn ∨ i = .call nnn) ∧ pcAfter i s = BitVec.ofNat 16 nnn.toNat) ∨
    (∃ nnn, i = .jpV0 nnn ∧ pcAfter i s = BitVec.ofNat 16 (nnn.toNat + (s.reg 0).toNat)) ∨
    (i = .ret ∧ pcAfter i s = returnAddress s) ∨
    pcAfter i s = s.pc ∨ pcAfter i s = s.pc + 2 ∨ pcAfter i s = s.pc + 4 := by
  have hskip (c : Bool) : skipTarget s c = s.pc ∨ skipTarget s c = s.pc + 2 ∨ skipTarget s c = s.pc + 4 := by
    cases c
    · exact .inr (.inl rfl)
    · exact .inr (.inr rfl)
  cases i with
  | jp nnn => exact .inl ⟨nnn, .inl rfl, rfl⟩
  | call nnn => exact .inl ⟨nnn, .inr rfl, rfl⟩
  | jpV0 nnn => exact .inr (.inl ⟨nnn, rfl, rfl⟩)
  | ret => exact .inr (.inr (.inl ⟨rfl, rfl⟩))
  | seImm x nn | sneImm x nn | seReg x y | sneReg x y | skp x | sknp x => exact .inr (.inr (.inr (hskip _)))
  | ldVxK x =>
    rw [pcAfter]
    split
    · exact .inr (.inr (.inr (.inl rfl)))
    · exact .inr (.inr (.inr (.inr (.inl rfl))))
  | _ => exact .inr (.inr (.inr (.inr (.inl rfl))))

/-- From an even `PC` inside memory, 0, 2 or 4 further on is even and at most 3 beyond memory's size. -/
theorem pc_advanced_ok {s : State} (heven : s.pc.toNat % 2 = 0) (hlt : s.pc.toNat < Config.memSize) {w : Word}
    (hw : w = s.pc ∨ w = s.pc + 2 ∨ w = s.pc + 4) : w.toNat % 2 = 0 ∧ w.toNat ≤ Config.memSize + 3 := by
  have hm : Config.memSize = 4096 := rfl
  have h2 : (2 : Word).toNat = 2 := rfl
  have h4 : (4 : Word).toNat = 4 := rfl
  obtain rfl | rfl | rfl := hw
  · omega
  · rw [BitVec.toNat_add, h2]; omega
  · rw [BitVec.toNat_add, h4]; omega

/-- Without a jump `PC` stays even. -/
theorem exec_pc_even {i : Instr} {s t : State} (hret : ReturnsOk s) (heven : s.pc.toNat % 2 = 0)
    (hlt : s.pc.toNat < Config.memSize) (h : exec i s = .next t)
    (hjump : ∀ nnn, i ≠ .jp nnn ∧ i ≠ .call nnn ∧ i ≠ .jpV0 nnn) : t.pc.toNat % 2 = 0 := by
  rw [exec_pc i s t h]
  obtain ⟨nnn, hi, -⟩ | ⟨nnn, hi, -⟩ | ⟨rfl, hpc⟩ | hpc := pcAfter_cases i s
  · exact (hi.elim (hjump nnn).1 (hjump nnn).2.1).elim
  · exact absurd hi (hjump nnn).2.2
  · obtain ⟨hsp, -⟩ := exec_ret_next h
    rw [hpc]
    exact (returnAddress_ok hret hsp).1
  · exact (pc_advanced_ok heven hlt hpc).1

/-- `PC` reaches at most `0x10FE`, the largest target of BNNN. -/
theorem exec_pc_le {i : Instr} {s t : State} (hret : ReturnsOk s) (heven : s.pc.toNat % 2 = 0)
    (hlt : s.pc.toNat < Config.memSize) (h : exec i s = .next t) : t.pc.toNat ≤ 0x10FE := by
  have hm : Config.memSize = 4096 := rfl
  rw [exec_pc i s t h]
  obtain ⟨nnn, -, hpc⟩ | ⟨nnn, -, hpc⟩ | ⟨rfl, hpc⟩ | hpc := pcAfter_cases i s
  · have := nnn.isLt
    rw [hpc, BitVec.toNat_ofNat]; omega
  · have := nnn.isLt
    have := (s.reg 0).isLt
    rw [hpc, BitVec.toNat_ofNat]; omega
  · obtain ⟨hsp, -⟩ := exec_ret_next h
    have := (returnAddress_ok hret hsp).2
    rw [hpc]; omega
  · have := (pc_advanced_ok heven hlt hpc).2
    omega

/-! ### The invariant -/

theorem step_keeps_inv (s t : State) (hinv : CoreInv s) (hstep : step s = .next t) : CoreInv t := by
  obtain ⟨i, u, hi, hexec, rfl⟩ := (step_eq_next s t).mp hstep
  obtain ⟨heven, hlt, -⟩ := (executes_iff s i).mp hi
  have hpc : u.pc.toNat ≤ 0x10FE := exec_pc_le hinv.returns heven hlt hexec
  exact ⟨exec_keeps_wf i s u hinv.memory hexec, exec_keeps_returns i s u hinv.returns heven hlt hexec, hpc⟩

theorem construct_establishes_inv (program : List Byte) (s : State) (h : construct program = .next s) : CoreInv s := by
  rcases Nat.lt_or_ge (Config.memSize - Config.progBase) program.length with hlarge | hfits
  · rw [construct_of_tooLarge program hlarge] at h
    cases h
  · rw [construct_of_fits program hfits] at h
    cases h
    have hpc : State.reset.pc.toNat ≤ 0x10FE := by decide
    refine ⟨Memory.wf_writeAll _ _ _ rfl fun k hk => ?_, fun k hk => absurd hk (Nat.not_lt_zero _), hpc⟩
    have hm : Config.memSize = 4096 := rfl
    have hp : Config.progBase = 0x200 := rfl
    have hrange := List.mem_range'_1.mp hk
    omega

/-- A faulting tick, a refused push and a snapshot change nothing; the others write no part the invariant speaks of. -/
theorem applyOp_keeps_inv (s : State) (op : HostOp) (hinv : CoreInv s) : CoreInv (applyOp s op) := by
  cases op with
  | tick =>
    change CoreInv (tick s).state
    cases hstep : step s with
    | next t => simpa [tick, hstep] using step_keeps_inv s t hinv hstep
    | fault f => simpa [tick, hstep] using hinv
    | refused r => simpa [tick, hstep] using hinv
  | setKey i p =>
    rcases Nat.lt_or_ge i 16 with hi | hi
    · simpa [applyOp, setKey_of_lt s i p hi] using ⟨hinv.memory, hinv.returns, hinv.pcReach⟩
    · simpa [applyOp, setKey_of_ge s i p hi] using hinv
  | takeDirtyFlag => exact ⟨hinv.memory, hinv.returns, hinv.pcReach⟩
  | snapshot => exact hinv

theorem runOps_keeps_inv (ops : List HostOp) (s : State) (hinv : CoreInv s) : CoreInv (runOps s ops) := by
  induction ops generalizing s with
  | nil => exact hinv
  | cons op ops ih => exact ih _ (applyOp_keeps_inv s op hinv)

end Sys2Proof.Machine

open Sys2Proof Sys2Proof.Machine

/-- Settles O55: memory, return addresses and `PC`, each kept by the execution; the timer phase touches none of them. -/
theorem stepKeepsInv : Obligations.StepKeepsInv := step_keeps_inv

/-- Settles O54: the program is written inside memory, over an empty stack and with `PC` at `PROG_BASE`. -/
theorem constructEstablishesInv : Obligations.ConstructEstablishesInv := construct_establishes_inv

/-- Settles O56, by induction over the operations of the session. -/
theorem sessionKeepsInv : Obligations.SessionKeepsInv := by
  rintro s ⟨program, ops, s0, hconstruct, rfl⟩
  exact runOps_keeps_inv ops s0 (construct_establishes_inv program s0 hconstruct)

/-- Settles O47: a tick without a jump leaves `PC` even. -/
theorem oddPcOnlyByJumps : Obligations.OddPcOnlyByJumps := by
  intro s t hinv hstep hodd
  obtain ⟨i, u, hi, hexec, rfl⟩ := (step_eq_next s t).mp hstep
  obtain ⟨heven, hlt, -⟩ := (executes_iff s i).mp hi
  by_contra hnone
  simp only [not_exists, not_or] at hnone
  have hjump : ∀ nnn, i ≠ .jp nnn ∧ i ≠ .call nnn ∧ i ≠ .jpV0 nnn := fun nnn =>
    have ⟨hjp, hcall, hjpV0⟩ := hnone nnn
    ⟨fun h => hjp (h ▸ hi), fun h => hcall (h ▸ hi), fun h => hjpV0 (h ▸ hi)⟩
  have hpc : u.pc.toNat % 2 = 0 := exec_pc_even hinv.returns heven hlt hexec hjump
  rw [State.timerPhase_pc, hpc] at hodd
  cases hodd

end

section
/-! PROOFS. Main memory: the canonical form lists a memory's contents in one way only (R51), and what an access reaches
under each address policy (R64). -/

namespace Sys2Proof.Machine

/-! ### The canonical form is unique -/

theorem Memory.read_of_notMem (m : Mem) (a : Nat) (h : ∀ c ∈ m, c.1 ≠ a) : Memory.read m a = Memory.initial a := by
  induction m with
  | nil => rfl
  | cons c rest ih =>
    rw [Memory.read, if_neg (h c (by simp))]
    exact ih fun d hd => h d (by simp [hd])

/-- In canonical form the first cell is the lowest, holds a byte that is not the initial one, and precedes a canonical
rest. -/
theorem Memory.wf_cons {k : Nat} {b : Byte} {m : Mem} (h : Memory.wf ((k, b) :: m) = true) :
    (∀ c ∈ m, k < c.1) ∧ b ≠ Memory.initial k ∧ Memory.wf m = true := by
  obtain ⟨hrising, hok⟩ := (Memory.wf_iff _).mp h
  obtain ⟨hlow, hrest⟩ := (Memory.rising_cons _ _).mp hrising
  have hcell : Memory.cellOk (k, b) = true := hok _ (by simp)
  refine ⟨hlow, ?_, (Memory.wf_iff _).mpr ⟨hrest, fun c hc => hok c (by simp [hc])⟩⟩
  simp only [Memory.cellOk, Bool.and_eq_true, bne_iff_ne] at hcell
  exact hcell.2

/-- Below its first cell a canonical memory reads as the initial contents. -/
theorem Memory.read_below {k a : Nat} {b : Byte} {m : Mem} (h : Memory.wf ((k, b) :: m) = true) (ha : a < k) :
    Memory.read ((k, b) :: m) a = Memory.initial a := by
  obtain ⟨hlow, -, -⟩ := Memory.wf_cons h
  refine Memory.read_of_notMem _ _ fun c hc => ?_
  rcases List.mem_cons.mp hc with rfl | hc
  · exact ha.ne'
  · exact (ha.trans (hlow c hc)).ne'

theorem Memory.read_head (k : Nat) (b : Byte) (m : Mem) : Memory.read ((k, b) :: m) k = b := by simp [Memory.read]

/-- Two canonical memories that read alike have the same first address: the lower of the two would be one where only one
of them differs from the initial contents. -/
theorem Memory.first_le_of_read_eq {k k' : Nat} {b b' : Byte} {m m' : Mem} (h : Memory.wf ((k, b) :: m) = true)
    (h' : Memory.wf ((k', b') :: m') = true)
    (heq : ∀ a, Memory.read ((k, b) :: m) a = Memory.read ((k', b') :: m') a) : k' ≤ k := by
  by_contra hlt
  obtain ⟨-, hb, -⟩ := Memory.wf_cons h
  have hk := heq k
  rw [Memory.read_head, Memory.read_below h' (not_le.mp hlt)] at hk
  exact hb hk

theorem Memory.ext_of_wf (m m' : Mem) (h : Memory.wf m = true) (h' : Memory.wf m' = true)
    (heq : ∀ a, Memory.read m a = Memory.read m' a) : m = m' := by
  induction m generalizing m' with
  | nil =>
    cases m' with
    | nil => rfl
    | cons c' rest' =>
      obtain ⟨k', b'⟩ := c'
      obtain ⟨-, hb', -⟩ := Memory.wf_cons h'
      have hk' := heq k'
      rw [Memory.read_head] at hk'
      exact absurd hk'.symm hb'
  | cons c rest ih =>
    obtain ⟨k, b⟩ := c
    obtain ⟨hlow, hb, hrest⟩ := Memory.wf_cons h
    cases m' with
    | nil =>
      have hk := heq k
      rw [Memory.read_head] at hk
      exact absurd hk hb
    | cons c' rest' =>
      obtain ⟨k', b'⟩ := c'
      obtain ⟨hlow', -, hrest'⟩ := Memory.wf_cons h'
      have hkk : k = k' := Nat.le_antisymm (Memory.first_le_of_read_eq h' h fun a => (heq a).symm)
        (Memory.first_le_of_read_eq h h' heq)
      subst hkk
      have hbb : b = b' := by simpa [Memory.read_head] using heq k
      subst hbb
      have htail : rest = rest' := by
        refine ih rest' hrest hrest' fun a => ?_
        by_cases ha : k = a
        · subst ha
          rw [Memory.read_of_notMem _ _ fun c hc => (hlow c hc).ne',
            Memory.read_of_notMem _ _ fun c hc => (hlow' c hc).ne']
        · simpa [Memory.read, ha] using heq a
      rw [htail]

/-! ### The policies (R64) -/

/-- Under `mask` every address of a sequence is reduced on its own. -/
theorem Memory.resolveSeq_mask (a n : Nat) :
    Memory.resolveSeq .mask a n = .ok ((List.range' a n).map (· % Config.memSize)) := by
  induction n generalizing a with
  | zero => rfl
  | succ n ih => simp only [Memory.resolveSeq, Memory.resolve, ih, List.range'_succ, List.map_cons]

/-- What `fault` lets through lies inside memory, where `mask` changes nothing. -/
theorem Memory.resolveSeq_mask_of_fault {a n : Nat} {ks : List Nat} (h : Memory.resolveSeq .fault a n = .ok ks) :
    Memory.resolveSeq .mask a n = .ok ks := by
  have hlt := Memory.resolveSeq_lt .fault a n ks h
  rw [Memory.resolveSeq_fault] at h
  split at h
  · cases h
    rw [Memory.resolveSeq_mask, List.map_congr_left fun k hk => Nat.mod_eq_of_lt (hlt k hk), List.map_id']
  · cases h

/-- At most `MEM_SIZE` consecutive addresses are reduced to different offsets. -/
theorem nodup_range'_mod (a n : Nat) (h : n ≤ Config.memSize) :
    ((List.range' a n).map (· % Config.memSize)).Nodup := by
  refine List.Nodup.map_on (fun j hj k hk hjk => ?_) List.nodup_range'
  have hj' := List.mem_range'_1.mp hj
  have hk' := List.mem_range'_1.mp hk
  have hm : Config.memSize = 4096 := rfl
  rw [hm] at hjk h
  omega

theorem Memory.read_writeAll_of_notMem (m : Mem) (ks : List Nat) (bs : List Byte) (a : Nat) (h : a ∉ ks) :
    Memory.read (Memory.writeAll m ks bs) a = Memory.read m a := by
  induction ks generalizing m bs with
  | nil => rfl
  | cons k ks ih =>
    obtain ⟨hk, hks⟩ := not_or.mp (mt List.mem_cons.mpr h)
    cases bs with
    | nil => rfl
    | cons b bs => rw [Memory.writeAll, ih _ _ hks, Memory.read_write, if_neg hk]

/-- Bytes written at different offsets are all found there. -/
theorem Memory.read_writeAll_getElem? (m : Mem) (ks : List Nat) (bs : List Byte) (hn : ks.Nodup) {j k : Nat} {b : Byte}
    (hk : ks[j]? = some k) (hb : bs[j]? = some b) : Memory.read (Memory.writeAll m ks bs) k = b := by
  induction ks generalizing m bs j with
  | nil => simp at hk
  | cons k' ks ih =>
    obtain ⟨hk', hn⟩ := List.nodup_cons.mp hn
    cases bs with
    | nil => simp at hb
    | cons b' bs =>
      rw [Memory.writeAll]
      cases j with
      | zero =>
        cases hk; cases hb
        rw [Memory.read_writeAll_of_notMem _ _ _ _ hk', Memory.read_write, if_pos rfl]
      | succ j => exact ih _ _ hn (by simpa using hk) (by simpa using hb)

theorem State.readFromI_mask (s : State) (n : Nat) :
    s.readFromI .mask n = .ok ((List.range' s.i.toNat n).map fun a => s.byteAt (a % Config.memSize)) := by
  simp only [State.readFromI, Memory.readSeq, Memory.resolveSeq_mask, List.map_map]
  rfl

theorem State.storeAtI_mask (s : State) (bytes : List Byte) :
    s.storeAtI .mask bytes = .ok (s.setMem
      (Memory.writeAll s.mem ((List.range' s.i.toNat bytes.length).map (· % Config.memSize)) bytes)) := by
  simp only [State.storeAtI, Memory.writeSeq, Memory.resolveSeq_mask]
  rfl

theorem fetch_mask (s : State) (heven : s.pc.toNat % 2 = 0) :
    fetch .mask s = .ok (wordOfBytes (s.byteAt (s.pc.toNat % Config.memSize))
      (s.byteAt ((s.pc.toNat + 1) % Config.memSize))) := by
  have hodd : ¬ s.pc.toNat % 2 = 1 := by omega
  simp only [fetch, if_neg hodd, Memory.resolve]

theorem State.readFromI_mask_of_fault {s : State} {n : Nat} {bytes : List Byte} (h : s.readFromI .fault n = .ok bytes) :
    s.readFromI .mask n = .ok bytes := by
  simp only [State.readFromI, Memory.readSeq] at h ⊢
  split at h
  · cases h
  · rename_i ks hks
    rw [Memory.resolveSeq_mask_of_fault hks]
    exact h

theorem State.storeAtI_mask_of_fault {s t : State} {bytes : List Byte} (h : s.storeAtI .fault bytes = .ok t) :
    s.storeAtI .mask bytes = .ok t := by
  simp only [State.storeAtI, Memory.writeSeq] at h ⊢
  split at h
  · cases h
  · rename_i ks hks
    rw [Memory.resolveSeq_mask_of_fault hks]
    exact h

theorem fetch_mask_of_fault {s : State} {op : Word} (h : fetch .fault s = .ok op) : fetch .mask s = .ok op := by
  obtain ⟨heven, hlt, rfl⟩ := (fetch_eq_ok s op).mp h
  have hm : Config.memSize = 4096 := rfl
  have hlt' : s.pc.toNat + 1 < Config.memSize := by omega
  rw [fetch_mask s heven, Nat.mod_eq_of_lt hlt, Nat.mod_eq_of_lt hlt']

end Sys2Proof.Machine

open Sys2Proof Sys2Proof.Machine

/-- Settles O36, by induction over the listed cells. -/
theorem canonicalMemoryIsUnique : Obligations.CanonicalMemoryIsUnique := Memory.ext_of_wf

/-- Settles O35: under `mask` every access is the one at the reduced addresses, which are those of `fault` where that
policy answers. -/
theorem addressPolicies : Obligations.AddressPolicies := by
  refine fun s => ⟨fun n => ⟨_, s.readFromI_mask n, by simp, fun j hj => ?_⟩,
    fun bytes hlen => ⟨_, s.storeAtI_mask bytes, fun j b hb => ?_, fun a ha => ?_⟩, fetch_mask s,
    fun _ _ => State.readFromI_mask_of_fault, fun _ _ => State.storeAtI_mask_of_fault, fun _ => fetch_mask_of_fault⟩
  · simp [hj]
  · obtain ⟨hj, -⟩ := List.getElem?_eq_some_iff.mp hb
    exact Memory.read_writeAll_getElem? _ _ _ (nodup_range'_mod _ _ hlen) (by simp [hj]) hb
  · refine Memory.read_writeAll_of_notMem _ _ _ _ fun hmem => ?_
    obtain ⟨c, hc, rfl⟩ := List.mem_map.mp hmem
    obtain ⟨hle, hlt⟩ := List.mem_range'_1.mp hc
    exact ha (c - s.i.toNat) (by omega) (by rw [Nat.add_sub_cancel' hle])

end

section
/-! PROOFS. Every word of a row decodes as the row says (R82, R87): it is the encoding of what its fields stand for. -/

namespace Sys2Proof.Machine

theorem decodesAs_of_encode {m mask : Word} {g : Word → Instr}
    (h : ∀ op, op &&& mask = m → (g op).WellFormed = true ∧ encode (g op) = op) : DecodesAs m mask g := by
  intro op hop
  obtain ⟨hwf, henc⟩ := h op hop
  exact (congrArg decode henc).symm.trans (decode_encode _ hwf)

theorem decodesAs_NNN {f : BitVec 4} {g : Lit12 → Instr} {m : Word} (hwf : ∀ nnn, (g nnn).WellFormed = true)
    (henc : ∀ nnn, encode (g nnn) = packNNN f nnn) (hm : m &&& 0xF000#16 = m) (hf : fieldF m = f) :
    DecodesAs m 0xF000#16 (fun op => g (fieldNNN op)) :=
  decodesAs_of_encode fun op hop =>
    ⟨hwf _, (henc _).trans (packNNN_of_family op (((maskF_iff op m hm).mp hop).trans hf))⟩

theorem decodesAs_XNN {f : BitVec 4} {g : Reg → Byte → Instr} {m : Word} (hwf : ∀ x nn, (g x nn).WellFormed = true)
    (henc : ∀ x nn, encode (g x nn) = packXNN f x nn) (hm : m &&& 0xF000#16 = m) (hf : fieldF m = f) :
    DecodesAs m 0xF000#16 (fun op => g (regX op) (fieldNN op)) :=
  decodesAs_of_encode fun op hop =>
    ⟨hwf _ _, (henc _ _).trans (packXNN_of_family op (((maskF_iff op m hm).mp hop).trans hf) rfl)⟩

theorem decodesAs_XSS {f : BitVec 4} {nn : Byte} {g : Reg → Instr} {m : Word} (hwf : ∀ x, (g x).WellFormed = true)
    (henc : ∀ x, encode (g x) = packXNN f x nn) (hm : m &&& 0xF0FF#16 = m) (hf : fieldF m = f) (hnn : fieldNN m = nn) :
    DecodesAs m 0xF0FF#16 (fun op => g (regX op)) :=
  decodesAs_of_encode fun op hop =>
    have ⟨hF, hNN⟩ := (maskFNN_iff op m hm).mp hop
    ⟨hwf _, (henc _).trans (packXNN_of_family op (hF.trans hf) (hNN.trans hnn))⟩

theorem decodesAs_XYS {f n : BitVec 4} {g : Reg → Reg → Instr} {m : Word} (hwf : ∀ x y, (g x y).WellFormed = true)
    (henc : ∀ x y, encode (g x y) = packXYN f x y n) (hm : m &&& 0xF00F#16 = m) (hf : fieldF m = f)
    (hn : fieldN m = n) : DecodesAs m 0xF00F#16 (fun op => g (regX op) (regY op)) :=
  decodesAs_of_encode fun op hop =>
    have ⟨hF, hN⟩ := (maskFN_iff op m hm).mp hop
    ⟨hwf _ _, (henc _ _).trans (packXYN_of_family op (hF.trans hf) (hN.trans hn))⟩

end Sys2Proof.Machine

end

section
/-! PROOFS. Stores and loads through `I` (R196 to R199, R72): the bytes an access reaches, byte by byte. -/

namespace Sys2Proof.Machine

/-- A stored byte is found where it was stored. -/
theorem State.storedAtI_byteAt_of_getElem? {s : State} {bytes : List Byte} {j : Nat} {b : Byte} (h : bytes[j]? = some b) :
    (s.storedAtI bytes).byteAt (s.i.toNat + j) = b := by
  rw [State.storedAtI_byteAt, if_pos (Nat.le_add_right ..), Nat.add_sub_cancel_left, h]; rfl

/-- A byte outside the stored range is as before. -/
theorem State.storedAtI_byteAt_of_outside {s : State} {bytes : List Byte} {a : Nat}
    (h : a < s.i.toNat ∨ s.i.toNat + bytes.length ≤ a) : (s.storedAtI bytes).byteAt a = s.byteAt a := by
  by_contra hne
  have := State.mem_range_of_storedAtI_ne hne
  omega

/-- FX55 leaves `V[k]` at `I + k` (R197). -/
theorem exec_ldMemVx_byteAt {x : Reg} {s t : State} (h : exec (.ldMemVx x) s = .next t) (k : Reg) (hk : k.val ≤ x.val) :
    t.byteAt (s.i.toNat + k.val) = s.reg k := by
  obtain ⟨-, rfl⟩ := exec_ldMemVx_next h
  exact State.storedAtI_byteAt_of_getElem? (s.regsUpTo_getElem? x k hk)

/-- FX65 takes `V[k]` from `I + k` (R198). -/
theorem exec_ldVxMem_reg {x : Reg} {s t : State} (h : exec (.ldVxMem x) s = .next t) (k : Reg) (hk : k.val ≤ x.val) :
    t.reg k = s.byteAt (s.i.toNat + k.val) := by
  obtain ⟨-, rfl⟩ := exec_ldVxMem_next h
  rw [State.nextPc_reg, State.loadRegs_reg, if_pos hk, List.getD_eq_getElem?_getD,
    s.bytesFromI_getElem? (Nat.lt_succ_of_le hk)]
  rfl

/-- R196: a byte's three digits are bytes. -/
theorem decimalDigits_getElem? (b : Byte) :
    (decimalDigits b)[0]? = some (BitVec.ofNat 8 (b.toNat / 100)) ∧
    (decimalDigits b)[1]? = some (BitVec.ofNat 8 (b.toNat / 10 % 10)) ∧
    (decimalDigits b)[2]? = some (BitVec.ofNat 8 (b.toNat % 10)) := ⟨rfl, rfl, rfl⟩

theorem toNat_ofNat_byte {n : Nat} (h : n < 256) : (BitVec.ofNat 8 n).toNat = n := Nat.mod_eq_of_lt h

end Sys2Proof.Machine

open Sys2Proof Sys2Proof.Machine

/-- Settles O30: FX33 is a store of three bytes, each a digit below 10. -/
theorem decimalDigits : Obligations.DecimalDigits := by
  refine ⟨decodesAs_XSS (fun _ => rfl) (fun _ => rfl) (by decide) (by decide) (by decide),
    fun x s => ⟨fun hin => ?_, fun hout => (exec_ldB x s).trans (if_neg (Nat.not_lt.mpr hout))⟩⟩
  have hexec := (exec_ldB x s).trans (if_pos hin)
  obtain ⟨h0, h1, h2⟩ := decimalDigits_getElem? (s.reg x)
  have hlt := (s.reg x).isLt
  refine ⟨_, hexec, ?_, ?_, ?_, fun a ha => ?_, rfl, exec_frame _ s _ hexec⟩
  · exact (congrArg BitVec.toNat (State.storedAtI_byteAt_of_getElem? h0)).trans (toNat_ofNat_byte (by omega))
  · exact (congrArg BitVec.toNat (State.storedAtI_byteAt_of_getElem? h1)).trans (toNat_ofNat_byte (by omega))
  · exact (congrArg BitVec.toNat (State.storedAtI_byteAt_of_getElem? h2)).trans (toNat_ofNat_byte (by omega))
  · exact State.storedAtI_byteAt_of_outside ha

/-- Settles O31: FX55 is a store of `X + 1` bytes, the registers in order. -/
theorem storeRegisters : Obligations.StoreRegisters := by
  refine ⟨decodesAs_XSS (fun _ => rfl) (fun _ => rfl) (by decide) (by decide) (by decide),
    fun x s => ⟨fun hin => ?_, fun hout => (exec_ldMemVx x s).trans (if_neg (Nat.not_lt.mpr hout))⟩⟩
  have hexec := (exec_ldMemVx x s).trans (if_pos hin)
  refine ⟨_, hexec, exec_ldMemVx_byteAt hexec, fun a ha => ?_, rfl, exec_frame _ s _ hexec⟩
  exact State.storedAtI_byteAt_of_outside (ha.imp_right fun h => by rw [State.regsUpTo_length]; exact h)

/-- Settles O32: FX65 is a load of `X + 1` bytes into the registers in order; those above `X` lie in the frame. -/
theorem loadRegisters : Obligations.LoadRegisters := by
  refine ⟨decodesAs_XSS (fun _ => rfl) (fun _ => rfl) (by decide) (by decide) (by decide),
    fun x s => ⟨fun hin => ?_, fun hout => (exec_ldVxMem x s).trans (if_neg (Nat.not_lt.mpr hout))⟩⟩
  have hexec := (exec_ldVxMem x s).trans (if_pos hin)
  have hframe := exec_frame _ s _ hexec
  refine ⟨_, hexec, exec_ldVxMem_reg hexec, fun k hk => hframe.1 k ?_, rfl, hframe⟩
  simpa [destRegs] using hk

/-- Settles O33: the load takes each register from where the store left it. -/
theorem dumpLoadRoundTrip : Obligations.DumpLoadRoundTrip := by
  intro x s t u hstore hi hbytes
  have hin : u.i.toNat + x.val < Config.memSize := hi ▸ (exec_ldMemVx_next hstore).1
  have hload := (exec_ldVxMem x u).trans (if_pos hin)
  refine ⟨_, hload, fun k hk => ?_⟩
  rw [exec_ldVxMem_reg hload k hk, hi, hbytes k.val hk, exec_ldMemVx_byteAt hstore k hk]

/-- Settles O34: the fetch reads the two bytes that hold `V[0]` and `V[1]`. -/
theorem storeThenFetch : Obligations.StoreThenFetch := by
  intro x s t u hstore hx heven hpc hmem
  have hin := (exec_ldMemVx_next hstore).1
  have hbyte (a : Nat) : u.byteAt a = t.byteAt a := by rw [State.byteAt, hmem]; rfl
  have h0 : t.byteAt s.i.toNat = s.reg 0 := exec_ldMemVx_byteAt hstore 0 (Nat.zero_le _)
  have h1 : t.byteAt (s.i.toNat + 1) = s.reg 1 := exec_ldMemVx_byteAt hstore 1 hx
  rw [fetch_eq_ok, hpc, hbyte, hbyte, h0, h1]
  exact ⟨heven, by omega, rfl⟩

end

section
/-! PROOFS. The framebuffer (R33, R172 to R175, R220): the pixels a sprite at `I` covers, what a draw does to each pixel,
and the snapshot's layout. -/

namespace Sys2Proof.Machine

/-- The pixels the blit toggles are those the statement's `SpriteCovers` names (R174). -/
theorem mem_spriteTargets_bytesFromI (s : State) (x0 y0 n : Nat) (p : Pixel) :
    p ∈ spriteTargets x0 y0 (s.bytesFromI n) ↔ SpriteCovers s x0 y0 n p := by
  rw [mem_spriteTargets]
  constructor
  · rintro ⟨r, c, row, hrow, hc, hbit, rfl⟩
    obtain ⟨hr, -⟩ := List.getElem?_eq_some_iff.mp hrow
    rw [State.bytesFromI_length] at hr
    rw [s.bytesFromI_getElem? hr] at hrow
    cases hrow
    exact ⟨r, c, hr, hc, hbit, rfl, rfl⟩
  · rintro ⟨r, c, hr, hc, hbit, hx, hy⟩
    exact ⟨r, c, _, s.bytesFromI_getElem? hr, hc, hbit, Prod.ext (Fin.ext hx) (Fin.ext hy)⟩

/-- Up to 15 rows no pixel is covered twice, so each is toggled once. -/
theorem nodup_spriteTargets_bytesFromI (s : State) (x0 y0 : Nat) {n : Nat} (hn : n < 16) :
    (spriteTargets x0 y0 (s.bytesFromI n)).Nodup := by
  refine spriteTargets_nodup _ _ _ ?_
  rw [State.bytesFromI_length]
  exact (Nat.le_of_lt hn).trans (by decide)

theorem blit_pixel_of_covers {s : State} {x0 y0 n : Nat} {p : Pixel} (fb : Screen) (hn : n < 16)
    (h : SpriteCovers s x0 y0 n p) : (blit fb x0 y0 (s.bytesFromI n)).fb.pixel p = !fb.pixel p := by
  rw [blit, foldl_blitPixel_pixel _ (nodup_spriteTargets_bytesFromI s x0 y0 hn),
    if_pos ((mem_spriteTargets_bytesFromI s x0 y0 n p).mpr h)]

theorem blit_pixel_of_not_covers {s : State} {x0 y0 n : Nat} {p : Pixel} (fb : Screen) (hn : n < 16)
    (h : ¬ SpriteCovers s x0 y0 n p) : (blit fb x0 y0 (s.bytesFromI n)).fb.pixel p = fb.pixel p := by
  rw [blit, foldl_blitPixel_pixel _ (nodup_spriteTargets_bytesFromI s x0 y0 hn),
    if_neg (mt (mem_spriteTargets_bytesFromI s x0 y0 n p).mp h)]

/-- The draw collides exactly when a covered pixel was lit. -/
theorem blit_hit_iff (s : State) (fb : Screen) (x0 y0 : Nat) {n : Nat} (hn : n < 16) :
    (blit fb x0 y0 (s.bytesFromI n)).hit = true ↔ ∃ p, SpriteCovers s x0 y0 n p ∧ fb.pixel p = true := by
  rw [blit, foldl_blitPixel_hit _ (nodup_spriteTargets_bytesFromI s x0 y0 hn)]
  simp only [Bool.false_eq_true, false_or, mem_spriteTargets_bytesFromI]

/-! ### What a completing draw leaves -/

theorem exec_drw_fb {x y : Reg} {n : Nat} {s t : State} (h : exec (.drw x y n) s = .next t) :
    t.fb = (blit s.fb (s.reg x).toNat (s.reg y).toNat (s.bytesFromI n)).fb := by
  obtain ⟨-, rfl⟩ := exec_drw_next h
  rfl

theorem exec_drw_vf {x y : Reg} {n : Nat} {s t : State} (h : exec (.drw x y n) s = .next t) :
    t.reg vf = b2n (blit s.fb (s.reg x).toNat (s.reg y).toNat (s.bytesFromI n)).hit := by
  obtain ⟨-, rfl⟩ := exec_drw_next h
  simp

theorem exec_drw_vf_eq_one {x y : Reg} {n : Nat} {s t : State} (hn : n < 16) (h : exec (.drw x y n) s = .next t)
    (hlit : ∃ p, SpriteCovers s (s.reg x).toNat (s.reg y).toNat n p ∧ s.fb.pixel p = true) : t.reg vf = 1 := by
  rw [exec_drw_vf h, (blit_hit_iff s s.fb _ _ hn).mpr hlit]; rfl

theorem exec_drw_vf_eq_zero {x y : Reg} {n : Nat} {s t : State} (hn : n < 16) (h : exec (.drw x y n) s = .next t)
    (hdark : ¬ ∃ p, SpriteCovers s (s.reg x).toNat (s.reg y).toNat n p ∧ s.fb.pixel p = true) : t.reg vf = 0 := by
  rw [exec_drw_vf h, Bool.eq_false_iff.mpr (mt (blit_hit_iff s s.fb _ _ hn).mp hdark)]; rfl

/-- States with the same `I` and the same sprite bytes draw the same sprite. -/
theorem State.bytesFromI_congr {s u : State} {n : Nat} (hi : u.i = s.i)
    (hbytes : ∀ r, r < n → u.byteAt (s.i.toNat + r) = s.byteAt (s.i.toNat + r)) : u.bytesFromI n = s.bytesFromI n := by
  refine List.ext_getElem? fun j => ?_
  rcases Nat.lt_or_ge j n with hj | hj
  · rw [u.bytesFromI_getElem? hj, s.bytesFromI_getElem? hj, hi, hbytes j hj]
  · rw [List.getElem?_eq_none (by simpa using hj), List.getElem?_eq_none (by simpa using hj)]

/-- Blitting a sprite a second time undoes the first. -/
theorem blit_blit_fb (s : State) (fb : Screen) (x0 y0 : Nat) {n : Nat} (hn : n < 16) :
    (blit (blit fb x0 y0 (s.bytesFromI n)).fb x0 y0 (s.bytesFromI n)).fb = fb := by
  refine Screen.ext_pixel _ _ fun p => ?_
  by_cases hp : SpriteCovers s x0 y0 n p
  · rw [blit_pixel_of_covers _ hn hp, blit_pixel_of_covers _ hn hp, Bool.not_not]
  · rw [blit_pixel_of_not_covers _ hn hp, blit_pixel_of_not_covers _ hn hp]

/-- After a first blit that found a covered pixel dark, a second one collides. -/
theorem blit_blit_hit {s : State} {fb : Screen} {x0 y0 n : Nat} (hn : n < 16) {p : Pixel}
    (hp : SpriteCovers s x0 y0 n p) (hdark : fb.pixel p = false) :
    (blit (blit fb x0 y0 (s.bytesFromI n)).fb x0 y0 (s.bytesFromI n)).hit = true :=
  (blit_hit_iff s _ x0 y0 hn).mpr ⟨p, hp, by rw [blit_pixel_of_covers fb hn hp, hdark]; rfl⟩

/-! ### The snapshot -/

theorem snapshot_eq_flatten (s : State) : snapshot s = s.fb.flatten.toList := by
  simp [snapshot, Vector.flatten, Vector.toList, Function.comp_def]

end Sys2Proof.Machine

open Sys2Proof Sys2Proof.Machine

/-- Settles O20: the draw is the blit of the bytes at `I`, pixel by pixel. -/
theorem drawSprite : Obligations.DrawSprite := by
  refine ⟨decodesAs_of_encode fun op hop => ⟨decide_eq_true (fieldN op).isLt, ?_⟩,
    fun x y n s hn => ⟨fun hin => ?_, fun h1 hout => (exec_drw x y n s).trans (if_neg (by omega))⟩⟩
  · have hf : fieldF op = 0xD#4 := (maskF_iff op _ (by decide)).mp hop
    rw [encode, BitVec.ofNat_toNat, BitVec.setWidth_eq, packXYN_of_family op hf rfl]
  · have hexec := (exec_drw x y n s).trans (if_pos hin)
    exact ⟨_, hexec, fun p hp => blit_pixel_of_covers s.fb hn hp, fun p hp => blit_pixel_of_not_covers s.fb hn hp,
      exec_drw_vf_eq_one hn hexec, exec_drw_vf_eq_zero hn hexec, rfl, rfl, exec_frame _ s _ hexec⟩

/-- Settles O21: the second blit toggles the same pixels, which the first left lit where it found them dark. -/
theorem doubleDrawRestores : Obligations.DoubleDrawRestores := by
  intro x y n s t u w hn hst huw hfb hx hy hi hbytes
  have hsprite : u.bytesFromI n = s.bytesFromI n := State.bytesFromI_congr hi hbytes
  have hwfb := exec_drw_fb huw
  have hwvf := exec_drw_vf huw
  rw [hfb, hx, hy, hsprite, exec_drw_fb hst] at hwfb hwvf
  have hsecond {p : Pixel} (hp : SpriteCovers s (s.reg x).toNat (s.reg y).toNat n p) (hdark : s.fb.pixel p = false) :
      w.reg vf = 1 := by
    rw [hwvf, blit_blit_hit hn hp hdark]; rfl
  refine ⟨hwfb.trans (blit_blit_fb s s.fb _ _ hn), fun ⟨p, hp⟩ => ?_, fun ⟨p, hp⟩ hdark => ?_⟩
  · cases hlit : s.fb.pixel p with
    | true => exact .inl (exec_drw_vf_eq_one hn hst ⟨p, hp, hlit⟩)
    | false => exact .inr (hsecond hp hlit)
  · have hnone : ¬ ∃ q, SpriteCovers s (s.reg x).toNat (s.reg y).toNat n q ∧ s.fb.pixel q = true := by
      rintro ⟨q, hq, hlit⟩
      rw [hdark q hq] at hlit
      cases hlit
    exact ⟨exec_drw_vf_eq_zero hn hst hnone, hsecond hp (hdark p hp)⟩

/-- Settles O22: the clear replaces the screen by the blank one. -/
theorem clearScreen : Obligations.ClearScreen := by
  refine ⟨fun op hop => ?_, fun s => ⟨_, rfl, Screen.pixel_blank, rfl, rfl, exec_frame .cls s _ rfl⟩⟩
  obtain rfl := (maskAll_iff op _).mp hop
  decide

/-- Settles O53: the snapshot is the flattened grid, whose rows all have the same width. -/
theorem snapshotIsRowMajor : Obligations.SnapshotIsRowMajor := by
  refine fun s => ⟨?_, rfl, fun p => ?_⟩
  · rw [snapshot_eq_flatten, Vector.length_toList]
    exact Nat.mul_comm _ _
  · obtain ⟨x, y⟩ := p
    have hxlt : x.val < 64 := x.isLt
    have hylt : y.val < 32 := y.isLt
    have hx : (y.val * 64 + x.val) % 64 = x.val := by omega
    have hy : (y.val * 64 + x.val) / 64 = y.val := by omega
    have hlt : y.val * 64 + x.val < 32 * 64 := by omega
    rw [snapshot_eq_flatten, Vector.getElem?_toList, Vector.getElem?_flatten]
    simp [hx, hy, hlt, Screen.pixel]

end

section
/-! PROOFS. Timers, the tone, the key wait and the halt idiom (R37, R108 to R112, R190 to R193, R242): what one tick does
to a timer, and runs of ticks that stay where they are. -/

namespace Sys2Proof.Machine

/-! ### One tick and the timers -/

theorem step_of_exec {s u : State} {i : Instr} (hi : Executes s i) (hexec : exec i s = .next u) :
    step s = .next u.timerPhase := by
  rw [step_of_executes hi, hexec]; rfl

/-- Without FX15 a tick counts `DT` down once. -/
theorem step_dt {s t : State} (hno : ∀ x, ¬ Executes s (.ldDtVx x)) (h : step s = .next t) :
    t.dt.toNat = s.dt.toNat - 1 := by
  obtain ⟨i, u, hi, hexec, rfl⟩ := (step_eq_next s t).mp h
  have hu : u.dt = s.dt := (exec_frame i s u hexec).2 .dt fun hmem => by
    obtain ⟨x, rfl⟩ := (dt_mem_destParts i).mp hmem
    exact hno x hi
  rw [State.timerPhase_dt, countDown_toNat, hu]

/-- Without FX18 a tick counts `ST` down once. -/
theorem step_st {s t : State} (hno : ∀ x, ¬ Executes s (.ldStVx x)) (h : step s = .next t) :
    t.st.toNat = s.st.toNat - 1 := by
  obtain ⟨i, u, hi, hexec, rfl⟩ := (step_eq_next s t).mp h
  have hu : u.st = s.st := (exec_frame i s u hexec).2 .st fun hmem => by
    obtain ⟨x, rfl⟩ := (st_mem_destParts i).mp hmem
    exact hno x hi
  rw [State.timerPhase_st, countDown_toNat, hu]

/-- The tone is on exactly while the sound timer is not zero (R36). -/
theorem State.tone_eq_true_iff (s : State) : s.tone = true ↔ s.st.toNat ≠ 0 := by
  rw [State.tone, bne_iff_ne, ne_eq, ne_eq, ← BitVec.toNat_inj]; rfl

theorem audioSignal_eq (s : State) : audioSignal s = if s.st.toNat = 0 then .stopTone else .startTone := by
  rw [audioSignal]
  by_cases h : s.st.toNat = 0
  · rw [if_pos h, if_neg (mt s.tone_eq_true_iff.mp (not_not_intro h))]
  · rw [if_neg h, if_pos (s.tone_eq_true_iff.mpr h)]

/-! ### Runs of ticks -/

theorem runTicks_succ_of_step {s u : State} (n : Nat) (h : step s = .next u) : runTicks (n + 1) s = runTicks n u := by
  rw [runTicks, h]

theorem runTicks_succ_next {n : Nat} {s t : State} (h : runTicks (n + 1) s = .next t) :
    ∃ u, step s = .next u ∧ runTicks n u = .next t := by
  rw [runTicks] at h
  split at h
  · exact ⟨_, ‹_›, h⟩
  · cases h
  · cases h

/-- A byte of the state that every tick from a state with `P` counts down once is, after `n` such ticks, less by `n`. -/
theorem runTicks_counts_down (f : State → Byte) (P : State → Prop)
    (hstep : ∀ s u, P s → step s = .next u → (f u).toNat = (f s).toNat - 1) (n : Nat) (s t : State)
    (h : runTicks n s = .next t) (hP : ∀ k u, k < n → runTicks k s = .next u → P u) :
    (f t).toNat = (f s).toNat - n := by
  induction n generalizing s with
  | zero => cases h; rfl
  | succ n ih =>
    obtain ⟨u, hsu, hut⟩ := runTicks_succ_next h
    have hfirst : (f u).toNat = (f s).toNat - 1 := hstep s u (hP 0 s (Nat.succ_pos n) rfl) hsu
    rw [ih u hut fun k w hk hw => hP (k + 1) w (Nat.succ_lt_succ hk) ((runTicks_succ_of_step k hsu).trans hw), hfirst]
    omega

theorem Part.same_trans {p : Part} {s t u : State} (hst : p.same s t) (htu : p.same t u) : p.same s u := by
  cases p with
  | mem => exact fun a => (htu a).trans (hst a)
  | _ => exact Eq.trans htu hst

theorem Frame.trans {rs : List Reg} {ps : List Part} {s t u : State} (hst : Frame rs ps s t) (htu : Frame rs ps t u) :
    Frame rs ps s u :=
  ⟨fun r hr => (htu.1 r hr).trans (hst.1 r hr), fun p hp => Part.same_trans (hst.2 p hp) (htu.2 p hp)⟩

theorem frame_timerPhase (s : State) : Frame [] [.dt, .st] s s.timerPhase :=
  ⟨fun _ _ => rfl, fun p hp => by cases p <;> simp_all [Part.same]⟩

/-- From a state with `P` a tick changes nothing but the timers, and `P` holds again. -/
def StaysPut (P : State → Prop) : Prop := ∀ s, P s → step s = .next s.timerPhase ∧ P s.timerPhase

/-- A machine that stays put runs for any number of ticks, its timers counting down. -/
theorem StaysPut.runTicks {P : State → Prop} (hstay : StaysPut P) (n : Nat) (s : State) (hs : P s) :
    ∃ t, runTicks n s = .next t ∧ P t ∧ t.pc = s.pc ∧ Frame [] [.dt, .st] s t ∧
      t.dt.toNat = s.dt.toNat - n ∧ t.st.toNat = s.st.toNat - n := by
  induction n generalizing s with
  | zero => exact ⟨s, rfl, hs, rfl, (Frame.refl s).mono (List.Subset.refl _) (List.nil_subset _), rfl, rfl⟩
  | succ n ih =>
    obtain ⟨hstep, hP⟩ := hstay s hs
    obtain ⟨t, hrun, ht, hpc, hframe, hdt, hst⟩ := ih _ hP
    rw [State.timerPhase_dt, countDown_toNat] at hdt
    rw [State.timerPhase_st, countDown_toNat] at hst
    exact ⟨t, (runTicks_succ_of_step n hstep).trans hrun, ht, hpc, (frame_timerPhase s).trans hframe, by omega, by omega⟩

/-! ### Waiting for a key (R37, R191) -/

theorem waiting_staysPut : StaysPut Waiting := by
  rintro s ⟨⟨x, hx⟩, hkeys⟩
  exact ⟨step_of_exec hx (exec_ldVxK_of_none x s hkeys), ⟨x, hx⟩, hkeys⟩

theorem pressedKeys_eq_nil_iff (s : State) : s.pressedKeys = [] ↔ ∀ k : Fin 16, s.key[k] = false := by
  simp only [List.eq_nil_iff_forall_not_mem, State.mem_pressedKeys, Bool.not_eq_true]

/-- With a key pressed FX0A completes and goes on. -/
theorem step_ldVxK_of_pressed {s : State} {x : Reg} (hx : Executes s (.ldVxK x)) (hkeys : s.pressedKeys ≠ []) :
    ∃ t, step s = .next t ∧ t.pc = s.pc + 2 := by
  obtain ⟨t, hexec, -⟩ := exec_ldVxK_completes x s
  exact ⟨_, step_of_exec hx hexec, (exec_pc _ s t hexec).trans (if_neg hkeys)⟩

/-- With exactly one key pressed the list of pressed keys is that key. -/
theorem pressedKeys_eq_singleton {s : State} {k : Fin 16} (h : ∀ j : Fin 16, s.key[j] = true ↔ j = k) :
    s.pressedKeys = [k] := by
  have hfilter : s.pressedKeys = (List.finRange 16).filter (· == k) :=
    List.filter_congr fun j _ => by rw [Bool.eq_iff_iff, h j, beq_iff_eq]
  rw [hfilter]
  simp [List.filter_beq, List.count_eq_one_of_mem (List.nodup_finRange 16) (List.mem_finRange k)]

theorem setReg_keyIndex_toNat (s : State) (x : Reg) (k : Fin 16) :
    ((s.setReg x (BitVec.ofNat 8 k.val)).reg x).toNat = k.val := by
  rw [State.setReg_reg, if_pos rfl]
  exact Nat.mod_eq_of_lt (k.isLt.trans (by decide))

/-! ### The halt idiom (R242) -/

/-- The word of `JP` to `PC` decodes to a jump to `PC`. -/
theorem executes_jp_of_halted {s : State} (h : Halted s) : ∃ nnn, Executes s (.jp nnn) ∧ literal nnn = s.pc := by
  obtain ⟨-, hlt, -⟩ := (fetch_eq_ok s _).mp h
  have hm : Config.memSize = 4096 := rfl
  have hword : 0x1000#16 + s.pc = BitVec.ofNat 16 (4096 + s.pc.toNat) := by
    apply BitVec.eq_of_toNat_eq
    rw [BitVec.toNat_add, BitVec.toNat_ofNat, BitVec.toNat_ofNat]
  have hfam : fieldF (0x1000#16 + s.pc) = 0x1#4 := by
    have hdiv : (4096 + s.pc.toNat) / 4096 = 1 := by omega
    rw [hword, fieldF_ofNat, hdiv]
  refine ⟨fieldNNN (0x1000#16 + s.pc), ⟨_, h, ?_⟩, ?_⟩
  · have hencode : encode (.jp (fieldNNN (0x1000#16 + s.pc))) = 0x1000#16 + s.pc := packNNN_of_family _ hfam
    exact (congrArg decode hencode).symm.trans (decode_encode _ rfl)
  · apply BitVec.eq_of_toNat_eq
    rw [literal_toNat, hword, fieldNNN_ofNat, BitVec.toNat_ofNat]
    omega

theorem halted_staysPut : StaysPut Halted := by
  intro s hs
  obtain ⟨nnn, hexecutes, hpc⟩ := executes_jp_of_halted hs
  have hexec : exec (.jp nnn) s = .next s := by
    change Host.Outcome.next (s.jump (literal nnn)) = _
    rw [hpc]; rfl
  exact ⟨step_of_exec hexecutes hexec, hs⟩

end Sys2Proof.Machine

open Sys2Proof Sys2Proof.Machine

/-- Settles O26: the tick is the execution closed by the timer phase. -/
theorem timerPhaseClosesTick : Obligations.TimerPhaseClosesTick := by
  intro s t i u hstep hi hexec
  cases (step_of_exec hi hexec).symm.trans hstep
  exact ⟨rfl, countDown_toNat _, countDown_toNat _⟩

/-- Settles O27, for each timer by the same induction over the ticks. -/
theorem timersCountTicks : Obligations.TimersCountTicks := fun n s t hrun =>
  ⟨fun hno => runTicks_counts_down State.dt (fun u => ∀ x, ¬ Executes u (.ldDtVx x)) (fun _ _ => step_dt) n s t hrun
      fun k u hk hu x => hno k u x hk hu,
    fun hno => runTicks_counts_down State.st (fun u => ∀ x, ¬ Executes u (.ldStVx x)) (fun _ _ => step_st) n s t hrun
      fun k u hk hu x => hno k u x hk hu⟩

/-- Settles O48: a jump to itself stays put. -/
theorem haltIdiomHolds : Obligations.HaltIdiomHolds := halted_staysPut.runTicks

/-- Settles O28: a wait stays put, and a pushed key is a pressed one at the next tick. -/
theorem keyWaitHolds : Obligations.KeyWaitHolds := by
  refine fun s hs => ⟨fun n => waiting_staysPut.runTicks n s hs, fun i u hpush => ?_⟩
  obtain ⟨⟨x, hx⟩, -⟩ := hs
  rcases Nat.lt_or_ge i 16 with hi | hi
  · rw [setKey_of_lt s i true hi] at hpush
    cases hpush
    have hpressed : (⟨i, hi⟩ : Fin 16) ∈ ({ s with key := s.key.set i true } : State).pressedKeys := by
      simp [State.mem_pressedKeys]
    exact step_ldVxK_of_pressed hx (List.ne_nil_of_mem hpressed)
  · rw [setKey_of_ge s i true hi] at hpush
    cases hpush

/-- Settles O25: no key, a key that a draw may choose, the only key. -/
theorem keyWait : Obligations.KeyWait := by
  refine ⟨decodesAs_XSS (fun _ => rfl) (fun _ => rfl) (by decide) (by decide) (by decide),
    fun x s => ⟨fun hnone => ?_, fun ⟨j, hj⟩ => ?_, fun k hk => ?_⟩⟩
  · exact exec_ldVxK_of_none x s ((pressedKeys_eq_nil_iff s).mpr hnone)
  · have hkeys : s.pressedKeys ≠ [] := List.ne_nil_of_mem ((s.mem_pressedKeys j).mpr hj)
    obtain ⟨hnil, -⟩ | ⟨k, hk, hexec | hexec⟩ := exec_ldVxK_cases x s
    · exact absurd hnil hkeys
    all_goals exact ⟨_, hexec, ⟨k, (s.mem_pressedKeys k).mp hk, setReg_keyIndex_toNat s x k⟩, rfl, exec_frame _ s _ hexec⟩
  · have hexec := exec_ldVxK_of_one x s (pressedKeys_eq_singleton hk)
    exact ⟨_, hexec, setReg_keyIndex_toNat s x k, rfl, frame_setReg_nextPc s x _⟩

/-- Settles O29: the signal of a completed tick is that of the state it leaves. -/
theorem audioFollowsSoundTimer : Obligations.AudioFollowsSoundTimer := by
  refine fun s => ⟨fun t hstep => ?_, fun f hstep => ?_⟩
  · rw [← audioSignal_eq]
    simp [tick, hstep]
  · rw [tick_of_fault s f hstep]

/-- Settles O23: the read sees the timer before the countdown that closes its tick. -/
theorem readDelayTimer : Obligations.ReadDelayTimer := by
  refine ⟨decodesAs_XSS (fun _ => rfl) (fun _ => rfl) (by decide) (by decide) (by decide),
    fun x s => ⟨_, rfl, ?_, rfl, exec_frame (.ldVxDt x) s _ rfl⟩, fun x s hx => ?_⟩
  · simp
  · exact ⟨_, step_of_exec hx rfl, by simp, countDown_toNat _⟩

/-- Settles O24: each write, and the countdown that closes its tick; the tone is that of the sound timer after it. -/
theorem setTimers : Obligations.SetTimers := by
  refine ⟨⟨decodesAs_XSS (fun _ => rfl) (fun _ => rfl) (by decide) (by decide) (by decide),
      fun x s => ⟨_, rfl, rfl, rfl, exec_frame (.ldDtVx x) s _ rfl⟩,
      fun x s hx => ⟨_, step_of_exec hx rfl, countDown_toNat _⟩⟩,
    decodesAs_XSS (fun _ => rfl) (fun _ => rfl) (by decide) (by decide) (by decide),
    fun x s => ⟨_, rfl, rfl, rfl, exec_frame (.ldStVx x) s _ rfl⟩, fun x s hx => ?_⟩
  have hst : ((s.setSt (s.reg x)).nextPc.timerPhase).st.toNat = (s.reg x).toNat - 1 := countDown_toNat _
  refine ⟨_, step_of_exec hx rfl, hst, ?_⟩
  rw [State.tone_eq_true_iff, hst]
  omega

end

section
/-! PROOFS. One instruction each: immediate and register arithmetic (R141, R151 to R159), skips (R130 to R134, R180, R181),
control flow (R121 to R124), random byte and index sum (R171, R194). -/

namespace Sys2Proof.Machine

/-! ### Flags and results as numbers (R31, R156 to R159) -/

theorem b2n_decide (p : Prop) [Decidable p] : b2n (decide p) = if p then 1 else 0 := by
  by_cases hp : p <;> simp [b2n, hp]

theorem toNat_b2n (c : Bool) : (b2n c).toNat = c.toNat := by cases c <;> rfl

/-- A byte difference as an integer modulo 256. -/
theorem toNat_sub_eq_emod (a b : Byte) : ((a - b).toNat : Int) = (a.toNat - b.toNat : Int) % 256 := by
  have := a.isLt
  have := b.isLt
  rw [BitVec.toNat_sub]
  omega

theorem toNat_shiftedOutLow (b : Byte) : (shiftedOutLow b).toNat = b.toNat % 2 := by
  rw [shiftedOutLow, BitVec.getLsbD, Nat.toNat_testBit, pow_zero, Nat.div_one]

theorem toNat_shiftedOutHigh (b : Byte) : (shiftedOutHigh b).toNat = b.toNat / 128 := by
  have := b.isLt
  rw [shiftedOutHigh, BitVec.getLsbD, Nat.toNat_testBit]
  omega

theorem toNat_shr_one (b : Byte) : (b >>> 1).toNat = b.toNat / 2 := by
  rw [BitVec.toNat_ushiftRight, Nat.shiftRight_one]

theorem toNat_shl_one (b : Byte) : (b <<< 1).toNat = b.toNat * 2 % 256 := by
  rw [BitVec.toNat_shiftLeft, Nat.shiftLeft_eq, pow_one]

/-! ### The register results of the shared updates -/

theorem setReg_nextPc_reg (s : State) (x : Reg) (b : Byte) : (s.setReg x b).nextPc.reg x = b := by simp

/-- The result in `V[X]` unless the flag takes its place (R150). -/
theorem setRegFlag_nextPc_reg (s : State) {x : Reg} (b : Byte) (c : Bool) (hx : x ≠ vf) :
    (s.setRegFlag x b c).nextPc.reg x = b := by simp [hx]

theorem setRegFlag_nextPc_vf (s : State) (x : Reg) (b : Byte) (c : Bool) :
    (s.setRegFlag x b c).nextPc.reg vf = b2n c := by simp

end Sys2Proof.Machine

open Sys2Proof Sys2Proof.Machine

/-- Settles O2: family 7 is one register write of the 8-bit sum. -/
theorem addImmediate : Obligations.AddImmediate := by
  refine ⟨decodesAs_XNN (fun _ _ => rfl) (fun _ _ => rfl) (by decide) (by decide),
    fun x nn s => ⟨_, rfl, ?_, rfl, exec_frame (.addImm x nn) s _ rfl⟩⟩
  rw [setReg_nextPc_reg, BitVec.toNat_add]

/-- Settles O3: each of the four is one register write. -/
theorem assignAndLogic : Obligations.AssignAndLogic := by
  refine ⟨⟨?_, fun x y s => ⟨_, rfl, setReg_nextPc_reg s x _, rfl, exec_frame (.ldReg x y) s _ rfl⟩⟩,
    ⟨?_, fun x y s => ⟨_, rfl, setReg_nextPc_reg s x _, rfl, exec_frame (.orReg x y) s _ rfl⟩⟩,
    ⟨?_, fun x y s => ⟨_, rfl, setReg_nextPc_reg s x _, rfl, exec_frame (.andReg x y) s _ rfl⟩⟩,
    ⟨?_, fun x y s => ⟨_, rfl, setReg_nextPc_reg s x _, rfl, exec_frame (.xorReg x y) s _ rfl⟩⟩⟩
  all_goals exact decodesAs_XYS (fun _ _ => rfl) (fun _ _ => rfl) (by decide) (by decide) (by decide)

/-- Settles O4: the carry is the comparison of the sum with 255. -/
theorem addWithCarry : Obligations.AddWithCarry := by
  refine ⟨decodesAs_XYS (fun _ _ => rfl) (fun _ _ => rfl) (by decide) (by decide) (by decide),
    fun x y s => ⟨_, rfl, fun hx => ?_, ?_, rfl, exec_frame (.addReg x y) s _ rfl⟩⟩
  · rw [setRegFlag_nextPc_reg s _ _ hx, BitVec.toNat_add]
  · rw [setRegFlag_nextPc_vf, carry, b2n_decide]

/-- Settles O5, both orderings alike. -/
theorem subtractBothOrderings : Obligations.SubtractBothOrderings := by
  refine ⟨⟨?_, fun x y s => ⟨_, rfl, fun hx => ?_, ?_, rfl, exec_frame (.sub x y) s _ rfl⟩⟩,
    ⟨?_, fun x y s => ⟨_, rfl, fun hx => ?_, ?_, rfl, exec_frame (.subn x y) s _ rfl⟩⟩⟩
  case refine_1 | refine_4 =>
    exact decodesAs_XYS (fun _ _ => rfl) (fun _ _ => rfl) (by decide) (by decide) (by decide)
  case refine_2 | refine_5 => rw [setRegFlag_nextPc_reg s _ _ hx, toNat_sub_eq_emod]
  case refine_3 | refine_6 => rw [setRegFlag_nextPc_vf, noBorrow, b2n_decide]

/-- Settles O6: the result and the bit shifted out, each as a quotient or a remainder of `V[X]`. -/
theorem shiftsByOne : Obligations.ShiftsByOne := by
  refine ⟨⟨?_, fun x y s => ⟨_, rfl, fun hx => ?_, ?_, rfl, exec_frame (.shr x y) s _ rfl⟩⟩,
    ⟨?_, fun x y s => ⟨_, rfl, fun hx => ?_, ?_, rfl, exec_frame (.shl x y) s _ rfl⟩⟩⟩
  case refine_1 | refine_4 =>
    exact decodesAs_XYS (fun _ _ => rfl) (fun _ _ => rfl) (by decide) (by decide) (by decide)
  case refine_2 => rw [setRegFlag_nextPc_reg s _ _ hx, toNat_shr_one]
  case refine_3 => rw [setRegFlag_nextPc_vf, toNat_b2n, toNat_shiftedOutLow]
  case refine_5 => rw [setRegFlag_nextPc_reg s _ _ hx, toNat_shl_one]
  case refine_6 => rw [setRegFlag_nextPc_vf, toNat_b2n, toNat_shiftedOutHigh]

/-- Settles O7: each skip is `skipIf` of its comparison. -/
theorem skipsOnImmediate : Obligations.SkipsOnImmediate := by
  refine ⟨⟨?_, fun x nn s => ⟨_, rfl, ?_, frame_skipIf s _⟩⟩, ⟨?_, fun x nn s => ⟨_, rfl, ?_, frame_skipIf s _⟩⟩⟩
  case refine_1 | refine_3 => exact decodesAs_XNN (fun _ _ => rfl) (fun _ _ => rfl) (by decide) (by decide)
  case refine_2 | refine_4 => simp only [State.skipIf_pc, beq_iff_eq, bne_iff_ne]

/-- Settles O8: each skip is `skipIf` of its comparison; the two families have no sub-opcode but 0. -/
theorem skipsOnRegisters : Obligations.SkipsOnRegisters := by
  refine ⟨⟨?_, fun x y s => ⟨_, rfl, ?_, frame_skipIf s _⟩⟩, ⟨?_, fun x y s => ⟨_, rfl, ?_, frame_skipIf s _⟩⟩,
    fun op hfam hn => ?_⟩
  case refine_1 | refine_3 =>
    exact decodesAs_XYS (fun _ _ => rfl) (fun _ _ => rfl) (by decide) (by decide) (by decide)
  case refine_2 | refine_4 => simp only [State.skipIf_pc, beq_iff_eq, bne_iff_ne]
  case refine_5 =>
    obtain hf | hf := hfam
    · simp only [decode, hf]
      exact (decodeSeReg_eq_none op).mpr hn
    · simp only [decode, hf]
      exact (decodeSneReg_eq_none op).mpr hn

/-- Settles O9: each skip is `skipIf` of the latch bit the register selects. -/
theorem skipsOnKeys : Obligations.SkipsOnKeys := by
  have hselected (x : Reg) (s : State) (k : Fin 16) (hk : k.val = (s.reg x).toNat % 16) : keyIndex (s.reg x) = k :=
    Fin.ext hk.symm
  refine ⟨⟨?_, fun x s => ⟨_, rfl, fun k hk => ?_, frame_skipIf s _⟩⟩,
    ⟨?_, fun x s => ⟨_, rfl, fun k hk => ?_, frame_skipIf s _⟩⟩⟩
  case refine_1 | refine_3 => exact decodesAs_XSS (fun _ => rfl) (fun _ => rfl) (by decide) (by decide) (by decide)
  case refine_2 => rw [State.skipIf_pc, hselected x s k hk, State.isPressed]
  case refine_4 =>
    rw [State.skipIf_pc, hselected x s k hk, State.isPressed]
    simp only [Bool.not_eq_true']

/-- Settles O10: the jump writes `PC` alone; a fetch at an odd `PC` is the tick's first fault. -/
theorem jumpSetsPc : Obligations.JumpSetsPc := by
  refine ⟨decodesAs_NNN (fun _ => rfl) (fun _ => rfl) (by decide) (by decide),
    fun nnn s => ⟨_, rfl, literal_toNat nnn, frame_jump s _, fun hodd => ?_⟩⟩
  rw [← literal_toNat] at hodd
  exact ((step_faultsAs _).fault_iff _).mpr (if_pos hodd)

/-- Settles O11: a push with room, followed by the jump; without room the push's fault. -/
theorem callPushesAndJumps : Obligations.CallPushesAndJumps := by
  refine ⟨decodesAs_NNN (fun _ => rfl) (fun _ => rfl) (by decide) (by decide),
    fun nnn s => ⟨fun hroom => ?_, fun hfull => (exec_call nnn s).trans (dif_neg (by omega))⟩⟩
  have hexec := (exec_call nnn s).trans (dif_pos hroom)
  refine ⟨_, hexec, fun k => ?_, rfl, literal_toNat nnn, exec_frame _ s _ hexec⟩
  exact (Vector.getElem_set hroom k.isLt).trans (if_congr eq_comm rfl rfl)

/-- Settles O12: a pop from a stack in use; from an empty one the pop's fault. -/
theorem returnPops : Obligations.ReturnPops := by
  refine ⟨fun op hop => ?_, fun s => ⟨fun huse => ?_, fun hempty => (exec_ret s).trans (dif_neg (by omega))⟩⟩
  · obtain rfl := (maskAll_iff op _).mp hop
    decide
  · have hexec := (exec_ret s).trans (dif_pos huse)
    refine ⟨_, hexec, fun k hk => ?_, Nat.sub_add_cancel huse, exec_frame _ s _ hexec⟩
    have hk' : s.sp.val - 1 = k.val := by omega
    simp [State.popped, hk']

/-- Settles O13: the return pops the entry the call pushed. -/
theorem callThenReturn : Obligations.CallThenReturn := by
  intro nnn s t u hcall hstk hsp
  obtain ⟨hroom, rfl⟩ := exec_call_next hcall
  have huse : 0 < u.sp.val := by rw [hsp]; exact Nat.succ_pos _
  refine ⟨_, (exec_ret u).trans (dif_pos huse), ?_, ?_⟩
  · simp [State.popped, hstk, hsp, State.pushed]
  · simp [State.popped, hsp, State.pushed]

/-- Settles O14: the target is the unreduced sum of two bounded numbers. -/
theorem indexedJump : Obligations.IndexedJump := by
  refine ⟨decodesAs_NNN (fun _ => rfl) (fun _ => rfl) (by decide) (by decide),
    fun nnn s => ⟨_, rfl, indexedTarget_toNat s nnn, ?_, frame_jump s _⟩⟩
  have := nnn.isLt
  have := (s.reg 0).isLt
  rw [State.jump_pc, indexedTarget_toNat]
  omega

/-- Settles O17: the draw is masked bit by bit. -/
theorem randomMasked : Obligations.RandomMasked := by
  refine ⟨decodesAs_XNN (fun _ _ => rfl) (fun _ _ => rfl) (by decide) (by decide),
    fun x nn s => ⟨_, rfl, ?_, fun b hb => ?_, rfl, rfl, exec_frame (.rnd x nn) s _ rfl⟩⟩
  · simp
  · simp [hb]

/-- Settles O18: the 16-bit sum, with the register zero-extended. -/
theorem addToIndex : Obligations.AddToIndex := by
  refine ⟨decodesAs_XSS (fun _ => rfl) (fun _ => rfl) (by decide) (by decide) (by decide),
    fun x s => ⟨_, rfl, ?_, rfl, frame_setI_nextPc s _⟩⟩
  rw [State.nextPc_i, State.setI_i, indexSum, BitVec.toNat_add, zext_toNat]

end

section
/-! PROOFS. The machine just constructed (R40, R60, R65, R230): its memory byte by byte, and the glyphs FX29 finds there. -/

namespace Sys2Proof.Machine

/-! ### The font (R60, R195) -/

theorem glyphAddress_toNat (b : Byte) : (glyphAddress b).toNat = Config.fontBase + 5 * (b.toNat % 16) := by
  have hbase : Config.fontBase = 0 := rfl
  have hstride : Config.glyphBytes = 5 := rfl
  rw [glyphAddress, BitVec.toNat_ofNat, hbase, hstride]
  omega

/-! ### Construction (R40, R65, R230) -/

theorem reset_reg : ∀ r, State.reset.reg r = 0 := by decide

theorem reset_stk : ∀ k : Fin 16, State.reset.stk[k] = 0 := by decide

theorem reset_key : ∀ k : Fin 16, State.reset.key[k] = false := by decide

/-- A byte of a machine just constructed: the program's from `PROG_BASE`, the initial contents elsewhere. -/
theorem construct_byteAt {program : List Byte} {s : State} (h : construct program = .next s) (a : Nat) :
    s.byteAt a =
      if Config.progBase ≤ a then (program[a - Config.progBase]?).getD (Memory.initial a) else Memory.initial a := by
  rcases Nat.lt_or_ge (Config.memSize - Config.progBase) program.length with hlarge | hfits
  · rw [construct_of_tooLarge program hlarge] at h
    cases h
  · rw [construct_of_fits program hfits] at h
    cases h
    exact Memory.read_writeAll_range [] Config.progBase program a

/-- Below `PROG_BASE` no program byte is written. -/
theorem construct_byteAt_below {program : List Byte} {s : State} (h : construct program = .next s) {a : Nat}
    (ha : a < Config.progBase) : s.byteAt a = Memory.initial a := by
  rw [construct_byteAt h, if_neg (Nat.not_le.mpr ha)]

theorem fontData_length : Config.fontData.length = 80 := rfl

/-- The font region reads as the font (R60). -/
theorem initial_of_fontData {k : Nat} {b : Byte} (h : Config.fontData[k]? = some b) :
    Memory.initial (Config.fontBase + k) = b := by
  rw [Memory.initial, if_pos (Nat.le_add_right ..), Nat.add_sub_cancel_left, List.getD_eq_getElem?_getD, h]; rfl

/-- Outside the font region an unlisted byte reads as 0 (R62). -/
theorem initial_of_outside_font {a : Nat} (h : ¬ (Config.fontBase ≤ a ∧ a < Config.fontBase + 80)) :
    Memory.initial a = 0 := by
  rw [Memory.initial]
  split
  · rw [List.getD_eq_default]
    rw [fontData_length]
    omega
  · rfl

theorem lt_of_fontData {k : Nat} {b : Byte} (h : Config.fontData[k]? = some b) : k < 80 :=
  (List.getElem?_eq_some_iff.mp h).1

end Sys2Proof.Machine

open Sys2Proof Sys2Proof.Machine

/-- Settles O19: the glyph's address, and the font bytes there, which lie below every program. -/
theorem fontGlyph : Obligations.FontGlyph := by
  refine ⟨decodesAs_XSS (fun _ => rfl) (fun _ => rfl) (by decide) (by decide) (by decide),
    fun x s => ⟨_, rfl, glyphAddress_toNat _, rfl, frame_setI_nextPc s _, fun program s0 r hconstruct hr => ?_⟩⟩
  have haddr : ((s.setI (glyphAddress (s.reg x))).nextPc.i.toNat + r) =
      Config.fontBase + (5 * ((s.reg x).toNat % 16) + r) := by
    rw [State.nextPc_i, State.setI_i, glyphAddress_toNat, Nat.add_assoc]
  have hlen : 5 * ((s.reg x).toNat % 16) + r < Config.fontData.length := by
    rw [fontData_length]; omega
  have hbase : Config.fontBase = 0 := rfl
  have hprog : Config.progBase = 0x200 := rfl
  have hfont := List.getElem?_eq_getElem hlen
  rw [haddr, construct_byteAt_below hconstruct (by omega), initial_of_fontData hfont, hfont]

/-- Settles O50: font, program and zeros in memory; every other field is that of `State.reset`. -/
theorem constructGivesReset : Obligations.ConstructGivesReset := by
  refine ⟨rfl, fun program hfits => ?_⟩
  have hconstruct := construct_of_fits program hfits
  have hbase : Config.fontBase = 0 := rfl
  have hprog : Config.progBase = 0x200 := rfl
  refine ⟨_, hconstruct, reset_reg, rfl, rfl, reset_stk, rfl, rfl, rfl, rfl, fun k b hb => ?_, fun k b hb => ?_,
    fun a hfont hprogram => ?_, Screen.pixel_blank, rfl, reset_key, rfl⟩
  · have := lt_of_fontData hb
    rw [construct_byteAt_below hconstruct (by omega), initial_of_fontData hb]
  · rw [construct_byteAt hconstruct, if_pos (Nat.le_add_right ..), Nat.add_sub_cancel_left, hb]; rfl
  · rw [construct_byteAt hconstruct, initial_of_outside_font hfont]
    split
    · rw [List.getElem?_eq_none (by omega)]; rfl
    · rfl

end
